-- ==== Sys2Proof/Word.lean ====
section
/-!
DEFINITION. Word.lean: the word types of the core (00_scope.md R5, R6). Every value is an unsigned bit vector, bit 0 the
least significant.
-/

namespace Sys2Proof

/-- One byte: MB, CNTR, SR, a ROM cell, a scratchpad cell (00_scope.md R5). -/
abbrev Byte := BitVec 8

/-- A 12-bit value: PC, PPC, BAR, an address of the instruction store (00_scope.md R5, `PC_BITS`, `BAR_BITS`). -/
abbrev Addr := BitVec 12

/-- A 4-bit value: SPAR, a cell number, the field bits 5:2 of a control word (00_scope.md R5, 30_encoding.md R46). -/
abbrev Nibble := BitVec 4

end Sys2Proof
end

