-- ==== Sys2Proof/Syntax.lean ====
section
/-!
DEFINITION. Syntax.lean: the control words as syntax, one constructor per row of spec/opcode_table.json (30_encoding.md R50),
and an instruction as it lies in the instruction store (30_encoding.md R48).

An instruction is what ONE control word selects: decoding depends on MB alone (30_encoding.md R56). The slot byte of a
two-byte form is no part of it; the machine reads it through the multiplexer (40_cycle_engine.md R65). Log entry 13.
-/

namespace Sys2Proof

/-- `src`, MB bit 0 wherever the multiplexer is called: 0 selects `ROM[PC]`, 1 selects `SP[SPAR]` (30_encoding.md R46). -/
inductive Src where
  | rom
  | sp
deriving DecidableEq, Repr

/-- The condition codes of `BR` and `WB`, MB bits 5:2 (30_encoding.md R51). `unimplemented code` is one of the twelve codes
the spec writes `U<cond>`; the four implemented codes have constructors of their own (`WellFormed.lean`). -/
inductive CondCode where
  | sr7
  | tc
  | crc0
  | flg
  | unimplemented (code : Nibble)
deriving DecidableEq, Repr

/-- The instructions: one constructor per row of spec/opcode_table.json, in the table's order. Bits the decoder ignores
(30_encoding.md R52) are no operands; the low bits of an `UNIMP` word are, since they reach its event. -/
inductive Instr where
  /-- `UNIMP`, row 000xxxxx: function codes 0 to 7, `low` is bits 4:0 (43_function.md R106). -/
  | unimpLow (low : BitVec 5)
  /-- `UNIMP`, row 001000xx: function code 8, `low` is bits 1:0 (43_function.md R106). -/
  | unimpMid (low : BitVec 2)
  /-- `BARC` (43_function.md R90). -/
  | barc
  /-- `BARZ` (43_function.md R91). -/
  | barz
  /-- `BARI` (43_function.md R92). -/
  | bari
  /-- `UNIMP`, row 00101xxx: function codes 10 and 11, `low` is bits 2:0 (43_function.md R106). -/
  | unimpHigh (low : BitVec 3)
  /-- `FLGH` (43_function.md R93). -/
  | flgh
  /-- `FLGC` (43_function.md R94). -/
  | flgc
  /-- `FLGS` (43_function.md R95). -/
  | flgs
  /-- `FLGT` (43_function.md R96). -/
  | flgt
  /-- `STSR` (43_function.md R97). -/
  | stsr
  /-- `LDCI #imm8`, its immediate the slot byte (43_function.md R98). -/
  | ldci
  /-- `LDCS` (43_function.md R99). -/
  | ldcs
  /-- `INCK pad8`, its pad the slot byte (43_function.md R100). -/
  | inck
  /-- `INC` (43_function.md R101). -/
  | inc
  /-- `SHL0` (43_function.md R102). -/
  | shl0
  /-- `LDSR` (43_function.md R103). -/
  | ldsr
  /-- `SHL1` (43_function.md R104). -/
  | shl1
  /-- `SHLD` (43_function.md R105). -/
  | shld
  /-- `BR c,p,#imm8` and `BR c,p,(R)` (41_branch.md R76). -/
  | br (c : CondCode) (pol : Bool) (src : Src)
  /-- `LSPA n` (42_jump_spar.md R86). -/
  | lspa (n : Nibble)
  /-- `JMP addr12` and `JMP page,(R)` (42_jump_spar.md R85). -/
  | jmp (page : Nibble) (src : Src)
  /-- `WB c,p,#imm8` and `WB c,p,(R)` (41_branch.md R77). -/
  | wb (c : CondCode) (pol : Bool) (src : Src)
deriving DecidableEq, Repr

/-- The deferring forms, which are followed by a slot byte (30_encoding.md R48). -/
def Instr.hasSlot : Instr → Bool
  | .br _ _ _ => true
  | .wb _ _ _ => true
  | .jmp _ _ => true
  | .ldci => true
  | .inck => true
  | .unimpLow _ => false
  | .unimpMid _ => false
  | .unimpHigh _ => false
  | .barc => false
  | .barz => false
  | .bari => false
  | .flgh => false
  | .flgc => false
  | .flgs => false
  | .flgt => false
  | .stsr => false
  | .ldcs => false
  | .inc => false
  | .shl0 => false
  | .ldsr => false
  | .shl1 => false
  | .shld => false
  | .lspa _ => false

/-- The length of an instruction in bytes (30_encoding.md R48). -/
def Instr.length (i : Instr) : Nat := if i.hasSlot then 2 else 1

/-- An instruction as it lies in the instruction store: the control word and, for a deferring form, its slot byte
(30_encoding.md R48, R57). -/
structure Placed where
  instr : Instr
  slot  : Option Byte
deriving DecidableEq, Repr

end Sys2Proof
end

