-- ==== Sys2Proof/WellFormed.lean ====
section
/-!
DEFINITION. WellFormed.lean: which terms of the syntax some control word encodes. Two checks: an `unimplemented` condition
code is none of the four implemented ones (30_encoding.md R51), and a slot byte stands exactly after a deferring form
(30_encoding.md R48).
-/

namespace Sys2Proof

/-- The code is one of the twelve unimplemented conditions of 30_encoding.md R51, or a named one. -/
def CondCode.wellFormed : CondCode → Bool
  | .sr7 => true
  | .tc => true
  | .crc0 => true
  | .flg => true
  | .unimplemented code => code != 4 && code != 5 && code != 6 && code != 15

/-- An instruction is well formed when its condition code, if it has one, is. -/
def Instr.wellFormed : Instr → Bool
  | .br c _ _ => c.wellFormed
  | .wb c _ _ => c.wellFormed
  | .unimpLow _ => true
  | .unimpMid _ => true
  | .unimpHigh _ => true
  | .barc => true
  | .barz => true
  | .bari => true
  | .flgh => true
  | .flgc => true
  | .flgs => true
  | .flgt => true
  | .stsr => true
  | .ldci => true
  | .ldcs => true
  | .inck => true
  | .inc => true
  | .shl0 => true
  | .ldsr => true
  | .shl1 => true
  | .shld => true
  | .lspa _ => true
  | .jmp _ _ => true

/-- A placed instruction is well formed when its instruction is and the slot byte is there exactly for a deferring form
(30_encoding.md R48). -/
def Placed.wellFormed (p : Placed) : Bool := p.instr.wellFormed && (p.slot.isSome == p.instr.hasSlot)

end Sys2Proof
end

