-- ==== Sys2Proof/Decode.lean ====
section
/-!
DEFINITION. Decode.lean: the decoder of control words, written from the bit tests of 30_encoding.md R45 to R51 in the order
the hardware makes them, then the encoder, written from the formats of 30_encoding.md R47 and R57, then the opcode map of
30_encoding.md R50 as a table of masks.

Every control word decodes (30_encoding.md R55). A list of bytes can only lack its control word or its slot byte, and is
then rejected by name.
-/

namespace Sys2Proof

/-- `fld`, bits 5:2 of a control word, as a number 0..15 (30_encoding.md R46). -/
def wordField (b : Byte) : Nibble := b.extractLsb' 2 4

/-- `src`, bit 0 of a control word (30_encoding.md R46). -/
def wordSrc (b : Byte) : Src := if b.getLsbD 0 then .sp else .rom

/-- The condition code a field selects (30_encoding.md R51). -/
def condOfField (f : Nibble) : CondCode :=
  if f = 4 then .sr7
  else if f = 5 then .tc
  else if f = 6 then .crc0
  else if f = 15 then .flg
  else .unimplemented f

/-- The function class, bits 7:6 `00`, dispatched on bits 5:2 and then on bits 1 and 0 (30_encoding.md R45, R50, R52). -/
def decodeFunction (b : Byte) : Instr :=
  let f := wordField b
  let m1 := b.getLsbD 1
  let m0 := b.getLsbD 0
  if f = 9 then if m1 then .bari else if m0 then .barz else .barc
  else if f = 12 then
    if m1 then (if m0 then .flgt else .flgs) else (if m0 then .flgc else .flgh)
  else if f = 13 then .stsr
  else if f = 14 then
    if m1 then (if m0 then .inc else .inck) else (if m0 then .ldcs else .ldci)
  else if f = 15 then
    if m1 then (if m0 then .shld else .shl1) else (if m0 then .ldsr else .shl0)
  else if f = 8 then .unimpMid (b.extractLsb' 0 2)
  else if f = 10 ∨ f = 11 then .unimpHigh (b.extractLsb' 0 3)
  else .unimpLow (b.extractLsb' 0 5)

/-- The decoder: bit 6 first, then bit 7, then the class's own bits (30_encoding.md R45). Total, since no control word is
illegal (30_encoding.md R55). -/
def decodeWord (b : Byte) : Instr :=
  if b.getLsbD 6 then
    if b.getLsbD 7 then .wb (condOfField (wordField b)) (b.getLsbD 1) (wordSrc b)
    else .br (condOfField (wordField b)) (b.getLsbD 1) (wordSrc b)
  else if b.getLsbD 7 then
    if b.getLsbD 1 then .jmp (wordField b) (wordSrc b) else .lspa (wordField b)
  else decodeFunction b

/-- Why a list of bytes is no instruction: it is empty, or it ends before the slot byte of a deferring form
(30_encoding.md R48). No control word is rejected. -/
inductive DecodeError where
  | noControlWord
  | noSlotByte (i : Instr)
deriving DecidableEq, Repr

/-- The instruction at the head of a list of bytes, with its slot byte, and the bytes after it (30_encoding.md R48). -/
def decodeBytes : List Byte → Except DecodeError (Placed × List Byte)
  | [] => .error .noControlWord
  | b :: rest =>
    if (decodeWord b).hasSlot then
      match rest with
      | [] => .error (.noSlotByte (decodeWord b))
      | slot :: rest' => .ok (⟨decodeWord b, some slot⟩, rest')
    else .ok (⟨decodeWord b, none⟩, rest)

/-- The bytes of an instruction whose bits are `w`, numbered as spec/opcode_table.json numbers them: byte 0 at the lower
address, every bit from `nbits` up read as 0. The longest instruction has two bytes. -/
def tableBytes (nbits w : Nat) : List Byte :=
  let v := w % 2 ^ nbits
  [BitVec.ofNat 8 v, BitVec.ofNat 8 (v / 256)]

/-- What the decoder reads from the table's word `w` of `nbits` bits. -/
def decodeTableWord (nbits w : Nat) : Option Instr :=
  match decodeBytes (tableBytes nbits w) with
  | .ok (p, _) => some p.instr
  | .error _ => none

/-! The encoder: class bits 7:6, field bits 5:2, bit 1, bit 0 (30_encoding.md R46, R47). -/

/-- A truth value as one bit. -/
def bitOf (p : Bool) : BitVec 1 := BitVec.ofBool p

/-- `src` as bit 0. -/
def Src.bit : Src → BitVec 1
  | .rom => 0
  | .sp => 1

/-- The number of a condition code, bits 5:2 (30_encoding.md R51). -/
def CondCode.code : CondCode → Nibble
  | .sr7 => 4
  | .tc => 5
  | .crc0 => 6
  | .flg => 15
  | .unimplemented code => code

/-- The condition field in place, `MB & 0x3C`, as the evaluator receives it (40_cycle_engine.md R66). -/
def CondCode.field (c : CondCode) : Byte := (c.code.setWidth 8) <<< 2

/-- The control word of an instruction, its ignored bits clear (30_encoding.md R47, R52, R57). -/
def encodeWord : Instr → Byte
  | .unimpLow low => 0b000#3 ++ low
  | .unimpMid low => 0b001000#6 ++ low
  | .unimpHigh low => 0b00101#5 ++ low
  | .barc => 0x24
  | .barz => 0x25
  | .bari => 0x26
  | .flgh => 0x30
  | .flgc => 0x31
  | .flgs => 0x32
  | .flgt => 0x33
  | .stsr => 0x34
  | .ldci => 0x38
  | .ldcs => 0x39
  | .inck => 0x3A
  | .inc => 0x3B
  | .shl0 => 0x3C
  | .ldsr => 0x3D
  | .shl1 => 0x3E
  | .shld => 0x3F
  | .br c pol src => 0b01#2 ++ c.code ++ bitOf pol ++ src.bit
  | .wb c pol src => 0b11#2 ++ c.code ++ bitOf pol ++ src.bit
  | .jmp page src => 0b10#2 ++ page ++ 1#1 ++ src.bit
  | .lspa n => 0b10#2 ++ n ++ 0b00#2

/-- The bytes of a placed instruction (30_encoding.md R48, R57). -/
def encode (p : Placed) : List Byte := encodeWord p.instr :: p.slot.toList

/-- The bits of a control word that its decoding ignores: bit 0 of `LSPA`, bit 0 of `BARI`, bits 1:0 of `STSR`
(30_encoding.md R52). -/
def ignoredBits (b : Byte) : Byte :=
  if b &&& 0xC2 = 0x80 then 0x01
  else if b &&& 0xFE = 0x26 then 0x01
  else if b &&& 0xFC = 0x34 then 0x03
  else 0x00

/-- The control word is a deferring form, told from its bits alone (30_encoding.md R48). -/
def deferringWord (b : Byte) : Bool :=
  b.getLsbD 6 || b &&& 0xC2 = 0x82 || b &&& 0xFD = 0x38

/-- One row of the opcode map: a word belongs to it when `word & mask = pattern` (30_encoding.md R50). -/
structure OpcodeRow where
  mnemonic : String
  pattern  : Byte
  mask     : Byte
deriving DecidableEq, Repr

/-- The word lies in the row. -/
def OpcodeRow.covers (r : OpcodeRow) (b : Byte) : Bool := b &&& r.mask == r.pattern

/-- The row of the opcode map an instruction belongs to (30_encoding.md R50, spec/opcode_table.json). -/
def Instr.row : Instr → OpcodeRow
  | .unimpLow _ => ⟨"UNIMP", 0x00, 0xE0⟩
  | .unimpMid _ => ⟨"UNIMP", 0x20, 0xFC⟩
  | .barc => ⟨"BARC", 0x24, 0xFF⟩
  | .barz => ⟨"BARZ", 0x25, 0xFF⟩
  | .bari => ⟨"BARI", 0x26, 0xFE⟩
  | .unimpHigh _ => ⟨"UNIMP", 0x28, 0xF8⟩
  | .flgh => ⟨"FLGH", 0x30, 0xFF⟩
  | .flgc => ⟨"FLGC", 0x31, 0xFF⟩
  | .flgs => ⟨"FLGS", 0x32, 0xFF⟩
  | .flgt => ⟨"FLGT", 0x33, 0xFF⟩
  | .stsr => ⟨"STSR", 0x34, 0xFC⟩
  | .ldci => ⟨"LDCI", 0x38, 0xFF⟩
  | .ldcs => ⟨"LDCS", 0x39, 0xFF⟩
  | .inck => ⟨"INCK", 0x3A, 0xFF⟩
  | .inc => ⟨"INC", 0x3B, 0xFF⟩
  | .shl0 => ⟨"SHL0", 0x3C, 0xFF⟩
  | .ldsr => ⟨"LDSR", 0x3D, 0xFF⟩
  | .shl1 => ⟨"SHL1", 0x3E, 0xFF⟩
  | .shld => ⟨"SHLD", 0x3F, 0xFF⟩
  | .br _ _ _ => ⟨"BR", 0x40, 0xC0⟩
  | .lspa _ => ⟨"LSPA", 0x80, 0xC2⟩
  | .jmp _ _ => ⟨"JMP", 0x82, 0xC2⟩
  | .wb _ _ _ => ⟨"WB", 0xC0, 0xC0⟩

/-- The opcode map: the 23 rows of spec/opcode_table.json, in its order (30_encoding.md R50). -/
def opcodeMap : List OpcodeRow :=
  [Instr.row (.unimpLow 0), Instr.row (.unimpMid 0), Instr.row .barc, Instr.row .barz, Instr.row .bari,
    Instr.row (.unimpHigh 0), Instr.row .flgh, Instr.row .flgc, Instr.row .flgs, Instr.row .flgt]
  ++ [Instr.row .stsr, Instr.row .ldci, Instr.row .ldcs, Instr.row .inck, Instr.row .inc,
    Instr.row .shl0, Instr.row .ldsr, Instr.row .shl1, Instr.row .shld]
  ++ [Instr.row (.br .sr7 false .rom), Instr.row (.lspa 0), Instr.row (.jmp 0 .rom),
    Instr.row (.wb .sr7 false .rom)]

end Sys2Proof
end

