-- ==== Sys2Proof/Config.lean ====
section
/-!
DEFINITION. Config.lean: the implementation parameters of 00_scope.md R5. The two the spec leaves to a model's caller, what the
scratchpad and the instruction store hold where nothing was put, are free values.
-/

namespace Sys2Proof

/-- `FETCH_KEEP`: the PC bits a sequential fetch keeps (00_scope.md R5, 40_cycle_engine.md R63). The spec decides 0x000 in
90_conflicts.md C1; log entry 1 (UNVERIFIED of the real part). -/
def Config.fetchKeep : Addr := 0x000

/-- `TC`: the terminal count of CNTR (00_scope.md R5, 10_state.md R17). -/
def Config.terminalCount : Byte := 255

/-- `BAR_BASE_A`: the value `BARC` loads into BAR (00_scope.md R5, 43_function.md R90). -/
def Config.barBaseA : Addr := 0x0C00

/-- `BAR_BASE_B`: the value `BARZ` loads into BAR (00_scope.md R5, 43_function.md R91). -/
def Config.barBaseB : Addr := 0x0000

/-- `SEP_DATA`: the external serial-data input, constant 0 in this revision (00_scope.md R5, 43_function.md R105); log
entry 8. -/
def Config.sepData : Bool := false

/-- `COND_DEFAULT`: what an unimplemented branch condition reads as (00_scope.md R5, 40_cycle_engine.md R66). -/
def Config.condDefault : Bool := true

/-- `SP_INIT`: what the scratchpad holds before anything was written to it. The spec leaves it OPEN (00_scope.md R5,
10_state.md R23, 92_eei_decisions.md D3: any value, never zero by default), so it is a free value: nothing constrains it.
Log entry 4 (DESIGN CHOICE, safe). -/
opaque Config.spInit : Vector Byte 16

/-- `ROM` where no byte was placed: what a cell of the instruction store reads as when the state lists no byte for it. The spec
makes ROM a total function that is the caller's argument and fixes no fill value (00_scope.md R5, 20_memory.md R31,
92_eei_decisions.md D2), so it is a free value, one for each address: nothing constrains it. Log entry 5 (DESIGN CHOICE,
safe). -/
opaque Config.romInit : Nat → Byte

end Sys2Proof
end

