-- ==== Sys2Proof/Machine/State.lean ====
section
/-!
DEFINITION. Machine/State.lean: the state of the core as plain data (10_state.md R10), the events it emits (60_exceptions.md
R112 to R114), the two reason types, and the state after reset (70_reset_and_hazards.md R125).
-/

namespace Sys2Proof.Machine

/-- The three observable events (60_exceptions.md R112 to R114). They change nothing (R115). -/
inductive Event where
  /-- A fetching decode cycle, with the PC of the control word about to be fetched (R112). -/
  | fetch (pc : Addr)
  /-- The evaluator met an unimplemented condition; `address` is PPC and `field` is `MB & 0x3C` (R113; log entry 10). -/
  | unhandledBranchCondition (address : Addr) (field : Byte)
  /-- The decode of an `UNIMP` word; `address` is PPC and `opcode` is MB (R114; log entry 10). -/
  | unimplementedInstruction (address : Addr) (opcode : Byte)
deriving DecidableEq, Repr

/-- The bytes placed in the instruction store as data: (address, byte) pairs with strictly rising addresses below 4096
(`Memory.wf` in Machine/Ops.lean; 20_memory.md R31). An address not listed holds no placed byte and reads as the free value
`Config.romInit` (log entry 5). -/
abbrev Memory := List Host.Cell

/-- The faults of the core: none. "No operation in this engine can fail at the API level" (00_scope.md R8, 60_exceptions.md
R110, R117), so the type has no constructor and no meaning can raise one. Log entry 19. -/
inductive Fault where
deriving DecidableEq, Repr

/-- Why the model gives an instruction no meaning. -/
inductive Refusal where
  /-- Raised by an arm of `exec` whose instruction has no meaning yet; safe. No arm raises it in this model. -/
  | notModelled (mnemonic : String)
deriving DecidableEq, Repr

/-- The state of the core: the twelve registers, the scratchpad, the instruction store (10_state.md R10, R24), and the output
trace (60_exceptions.md R115), which no cycle reads. -/
structure State where
  /-- PC, the program counter (10_state.md R11). -/
  pc : Addr
  /-- PPC, the address of the control word in MB, for diagnostics only (10_state.md R12). -/
  ppc : Addr
  /-- MB, the control word being executed (10_state.md R13). -/
  mb : Byte
  /-- IDIS: the next cycle is the deferred cycle (10_state.md R14). -/
  idis : Bool
  /-- IREP: the next decode cycle decodes MB again and does not fetch (10_state.md R15). -/
  irep : Bool
  /-- BRC: the stored branch decision (10_state.md R16). -/
  brc : Bool
  /-- CNTR, the counter (10_state.md R17). -/
  cntr : Byte
  /-- SR, the shift register (10_state.md R18). -/
  sr : Byte
  /-- SPAR, the scratchpad address register (10_state.md R19). -/
  spar : Nibble
  /-- BAR, the buffer address register (10_state.md R20). -/
  bar : Addr
  /-- CRC, of which bit 0 is read and which only reset writes (10_state.md R21; its width is log entry 7). -/
  crc : BitVec 16
  /-- FLAG, the status flag (10_state.md R22). -/
  flag : Bool
  /-- SP, the scratchpad: 16 cells, the general register file (10_state.md R23). -/
  sp : Vector Byte 16
  /-- ROM, the instruction store, which the core only reads (10_state.md R24). -/
  rom : Memory
  /-- The events emitted so far, oldest first (60_exceptions.md R115; log entry 6). -/
  trace : List Event
deriving DecidableEq, Repr

/-- The machine right after reset: every register zero or false (70_reset_and_hazards.md R125; BRC by 92_eei_decisions.md
D7). Reset does not touch the memories (R126): the scratchpad holds the free contents `Config.spInit` (log entry 4), the
instruction store has no placed byte, so every cell reads as the free `Config.romInit` (log entry 5), and nothing has been emitted (log entry 6). -/
def State.reset : State where
  pc := 0x000
  ppc := 0x000
  mb := 0x00
  idis := false
  irep := false
  brc := false
  cntr := 0x00
  sr := 0x00
  spar := 0x0
  bar := 0x000
  crc := 0
  flag := false
  sp := Config.spInit
  rom := []
  trace := []

end Sys2Proof.Machine
end

