-- ==== Sys2Proof/Machine/Ops.lean ====
section
/-!
DEFINITION. Machine/Ops.lean: the named operations over the two memories and the registers, and the reset operation.
The core has no exception and no return from one (60_exceptions.md R110, R117, R118), so none is taken here.
-/

namespace Sys2Proof.Machine

/-! ## The instruction store (20_memory.md R31, R33) -/

/-- The number of cells of the instruction store (00_scope.md R5, 20_memory.md R31). -/
def Memory.size : Nat := 4096

/-- The byte placed at an address, if one was. -/
def Memory.placed : Memory → Nat → Option Byte
  | [], _ => none
  | (b, v) :: m, a => if a = b then some v else Memory.placed m a

/-- `ROM[a]`: a read of one byte, total and without side effect (20_memory.md R33, R38). Where no byte was placed it is the free
value `Config.romInit`, since the spec fixes no fill value (92_eei_decisions.md D2; log entry 5). -/
def Memory.read (m : Memory) (a : Nat) : Byte := (Memory.placed m a).getD (Config.romInit a)

/-- Place one byte in a memory, keeping the canonical form. No instruction does this (20_memory.md R43): it stands for the
host that populates the store (70_reset_and_hazards.md R129). -/
def Memory.write : Memory → Nat → Byte → Memory
  | [], a, v => [(a, v)]
  | (b, w) :: m, a, v =>
    if a < b then (a, v) :: (b, w) :: m
    else if a = b then (a, v) :: m
    else (b, w) :: Memory.write m a v

/-- The canonical form from address `lo` up: addresses strictly rising and inside the store. -/
def Memory.wfFrom : Nat → Memory → Bool
  | _, [] => true
  | lo, (a, _) :: m => decide (lo ≤ a) && decide (a < Memory.size) && Memory.wfFrom (a + 1) m

/-- The canonical form of the instruction store. -/
def Memory.wf (m : Memory) : Bool := Memory.wfFrom 0 m

/-- `MemRead(ROM, a, 1)` (20_memory.md R33). -/
def romRead (a : Addr) (s : State) : Byte := Memory.read s.rom a.toNat

/-! ## The scratchpad (20_memory.md R32, R33) -/

/-- `MemRead(SP, i, 1)` (20_memory.md R33). -/
def spRead (i : Nibble) (s : State) : Byte := s.sp[i.toNat]'(i.isLt)

/-- `MemWrite(SP, i, 1, v)`: cell `i` becomes `v`, no other cell changes (20_memory.md R33). -/
def spWrite (i : Nibble) (v : Byte) (s : State) : State := { s with sp := s.sp.set i.toNat v i.isLt }

/-! ## Registers and the trace -/

/-- `emit E`: append an event to the trace (00_scope.md R7, 60_exceptions.md R115). -/
def emit (e : Event) (s : State) : State := { s with trace := s.trace ++ [e] }

/-- `CNTR + 1` modulo 256 (10_state.md R17, 43_function.md R107). -/
def countUp (s : State) : State := { s with cntr := s.cntr + 1 }

/-- `SR <- ((SR << 1) | serial) & 0xFF`, the old bit 7 lost (10_state.md R18, 43_function.md R107). -/
def shiftIn (serial : Bool) (s : State) : State :=
  { s with sr := (s.sr <<< 1) ||| (BitVec.ofBool serial).setWidth 8 }

/-- The host's reset operation: every register to its reset value, both memories and the trace left alone
(70_reset_and_hazards.md R125, R126). It takes effect between cycles only (R128) and is no step. -/
def resetCore (s : State) : State :=
  { s with
    pc := 0x000, ppc := 0x000, mb := 0x00, idis := false, irep := false, brc := false
    cntr := 0x00, sr := 0x00, spar := 0x0, bar := 0x000, crc := 0, flag := false }

end Sys2Proof.Machine
end

