-- ==== Sys2Proof/Machine/Flags.lean ====
section
/-!
DEFINITION. Machine/Flags.lean: the condition evaluator (40_cycle_engine.md R66), the stored branch decision
(41_branch.md R75) and the equation of FLAG (43_function.md, FLAG group).
-/

namespace Sys2Proof.Machine

/-- `CNTR == 255`, the terminal count (10_state.md R17). -/
def terminalCount (s : State) : Bool := s.cntr == Config.terminalCount

/-- The value `Cond` returns (40_cycle_engine.md R66, 30_encoding.md R51). -/
def condValue (c : CondCode) (s : State) : Bool :=
  match c with
  | .sr7 => s.sr.getLsbD 7
  | .tc => terminalCount s
  | .crc0 => s.crc.getLsbD 0
  | .flg => s.flag
  | .unimplemented _ => Config.condDefault

/-- The event `Cond` emits: one for an unimplemented condition, none else (40_cycle_engine.md R66, 60_exceptions.md R113). -/
def condEvent (c : CondCode) (s : State) : State :=
  match c with
  | .sr7 => s
  | .tc => s
  | .crc0 => s
  | .flg => s
  | .unimplemented _ => emit (.unhandledBranchCondition s.ppc c.field) s

/-- The branch decision: the condition compared with the polarity bit (41_branch.md R75). -/
def branchTaken (c : CondCode) (pol : Bool) (s : State) : Bool := condValue c s == pol

/-- `BRC <- (Cond(MB & 0x3C) == MB[1])`, with the event of the evaluation (41_branch.md R75). -/
def storeBranchTaken (c : CondCode) (pol : Bool) (s : State) : State :=
  { condEvent c s with brc := branchTaken c pol s }

/-- `(not MB[0] and FLAG) or (MB[1] and not FLAG)`, both FLAGs the old value (43_function.md FLAG group, 10_state.md R22;
90_conflicts.md C2, log entry 2). -/
def nextFlag (m1 m0 flag : Bool) : Bool := (!m0 && flag) || (m1 && !flag)

end Sys2Proof.Machine
end

