-- ==== Sys2Proof/Machine/Operands.lean ====
section
/-!
DEFINITION. Machine/Operands.lean: the operand forms of 30_encoding.md R49: the multiplexed source, the slot address and the
three ways the deferred cycle computes PC.
-/

namespace Sys2Proof.Machine

/-- The byte a source selects: `ROM[PC]` or `SP[SPAR]` (40_cycle_engine.md R65). -/
def muxOf (src : Src) (s : State) : Byte :=
  match src with
  | .rom => romRead s.pc s
  | .sp => spRead s.spar s

/-- `Mux()`: the source selected by MB bit 0 (40_cycle_engine.md R65). -/
def mux (s : State) : Byte := muxOf (wordSrc s.mb) s

/-- PC after a sequential fetch at `a`, which is the slot address of the word at `a`:
`(a & FETCH_KEEP) | ((a + 1) & 0x07FF)` (40_cycle_engine.md R63, 30_encoding.md R48; 90_conflicts.md C1, log entry 1). -/
def slotAddress (a : Addr) : Addr := (a &&& Config.fetchKeep) ||| ((a + 1) &&& 0x07FF)

/-- `((MB & 0x3C) << 6) | low`: the target of an absolute jump (30_encoding.md R49, 42_jump_spar.md R85). -/
def jumpTarget (mb low : Byte) : Addr := (((mb &&& 0x3C).setWidth 12) <<< 6) ||| low.setWidth 12

/-- `((PC + 1) & 0x0F00) | low`: the target of a taken branch, PC the slot address (41_branch.md R78). -/
def branchTarget (slot : Addr) (low : Byte) : Addr := ((slot + 1) &&& 0x0F00) ||| low.setWidth 12

/-- `(PC + 1) & 0x0FFF`: the address after the slot byte (40_cycle_engine.md R62). -/
def fallThrough (slot : Addr) : Addr := slot + 1

/-- The new PC of a deferred cycle, its three cases in the spec's order (40_cycle_engine.md R62). -/
def deferredPc (s : State) : Addr :=
  if s.mb &&& 0xC2 = 0x82 then jumpTarget s.mb (mux s)
  else if s.mb.getLsbD 6 && s.brc then branchTarget s.pc (mux s)
  else fallThrough s.pc

end Sys2Proof.Machine
end

