-- ==== Sys2Proof/Machine/Engine.lean ====
section
/-!
DEFINITION. Machine/Engine.lean: the parts of a microcycle that are no instruction's own: the fetch step and the deferred
cycle (40_cycle_engine.md R62, R63), and the placing of one instruction where the next cycle fetches.
-/

namespace Sys2Proof.Machine

/-- The fetch step: PPC, the event, MB, then PC (40_cycle_engine.md R63). -/
def fetch (s : State) : State :=
  { emit (.fetch s.pc) s with ppc := s.pc, mb := romRead s.pc s, pc := slotAddress s.pc }

/-- The state in which a decode cycle decodes: after the fetch, or as it stands when IREP is set (40_cycle_engine.md R63). -/
def decodePoint (s : State) : State := if s.irep then s else fetch s

/-- The deferred cycle: it writes PC, IDIS and IREP and nothing else (40_cycle_engine.md R62). -/
def deferredCycle (s : State) : State := { s with pc := deferredPc s, idis := false, irep := false }

/-- Make the next cycle a fetching decode cycle of the bytes `b0`, `b1`: they are put at PC and at its slot
address, and the machine is at an instruction boundary (40_cycle_engine.md R70; log entry 14). -/
def placeAtFetch (b0 b1 : Byte) (s : State) : State :=
  { s with
    idis := false, irep := false
    rom := Memory.write (Memory.write s.rom s.pc.toNat b0) (slotAddress s.pc).toNat b1 }

end Sys2Proof.Machine
end

