-- ==== Sys2Proof/Machine/BarGroup.lean ====
section
/-!
DEFINITION. Machine/BarGroup.lean: the BAR group, 43_function.md R90 to R92.
-/

namespace Sys2Proof.Machine

/-- `BARC`: `BAR <- 0x0C00` (43_function.md R90). -/
def execBarc (s : State) : Host.Outcome State Fault Refusal := .next { s with bar := Config.barBaseA }

/-- `BARZ`: `BAR <- 0x000` (43_function.md R91). -/
def execBarz (s : State) : Host.Outcome State Fault Refusal := .next { s with bar := Config.barBaseB }

/-- `BARI`: `BAR <- (BAR + 1) & 0x0FFF` (43_function.md R92). -/
def execBari (s : State) : Host.Outcome State Fault Refusal := .next { s with bar := s.bar + 1 }

end Sys2Proof.Machine
end

