-- ==== Sys2Proof/Machine/Branch.lean ====
section
/-!
DEFINITION. Machine/Branch.lean: the decode steps of the branch class, 41_branch.md R75 to R77. The transfer itself is the
deferred cycle's (40_cycle_engine.md R62), which reads the source from MB; hence `_src` is not used here.
-/

namespace Sys2Proof.Machine

/-- `BR`: store the decision, defer (41_branch.md R76). -/
def execBr (c : CondCode) (pol : Bool) (_src : Src) (s : State) : Host.Outcome State Fault Refusal :=
  .next { storeBranchTaken c pol s with idis := true }

/-- `WB`: store the decision; defer if it is taken or CNTR was 255, else repeat; count up. All from the CNTR before the
count (41_branch.md R77, 40_cycle_engine.md R68 (b); log entry 11). -/
def execWb (c : CondCode) (pol : Bool) (_src : Src) (s : State) : Host.Outcome State Fault Refusal :=
  .next
    (countUp
      { storeBranchTaken c pol s with
        idis := terminalCount s || branchTaken c pol s
        irep := !terminalCount s && !branchTaken c pol s })

end Sys2Proof.Machine
end

