-- ==== Sys2Proof/Machine/CounterGroup.lean ====
section
/-!
DEFINITION. Machine/CounterGroup.lean: the counter group, 43_function.md R98 to R101. IDIS becomes `not MB[0]` in all four;
the source of a load is the one its form names (log entry 15).
-/

namespace Sys2Proof.Machine

/-- `LDCI #imm8`: CNTR from the slot byte, then the deferred cycle steps over it (43_function.md R98). -/
def execLdci (s : State) : Host.Outcome State Fault Refusal :=
  .next { s with cntr := muxOf .rom s, idis := true }

/-- `LDCS`: CNTR from the scratchpad (43_function.md R99). -/
def execLdcs (s : State) : Host.Outcome State Fault Refusal :=
  .next { s with cntr := muxOf .sp s, idis := false }

/-- `INCK pad8`: CNTR up by one, then the deferred cycle steps over the slot byte (43_function.md R100). -/
def execInck (s : State) : Host.Outcome State Fault Refusal := .next { countUp s with idis := true }

/-- `INC`: CNTR up by one (43_function.md R101). -/
def execInc (s : State) : Host.Outcome State Fault Refusal := .next { countUp s with idis := false }

end Sys2Proof.Machine
end

