-- ==== Sys2Proof/Machine/FlagGroup.lean ====
section
/-!
DEFINITION. Machine/FlagGroup.lean: the FLAG group, 43_function.md R93 to R96: one equation (`nextFlag`) for the four words.
-/

namespace Sys2Proof.Machine

/-- `FLGH`: MB[1] = 0, MB[0] = 0, FLAG held; the no-operation (43_function.md R93). -/
def execFlgh (s : State) : Host.Outcome State Fault Refusal := .next { s with flag := nextFlag false false s.flag }

/-- `FLGC`: MB[1] = 0, MB[0] = 1, FLAG cleared (43_function.md R94). -/
def execFlgc (s : State) : Host.Outcome State Fault Refusal := .next { s with flag := nextFlag false true s.flag }

/-- `FLGS`: MB[1] = 1, MB[0] = 0, FLAG set (43_function.md R95). -/
def execFlgs (s : State) : Host.Outcome State Fault Refusal := .next { s with flag := nextFlag true false s.flag }

/-- `FLGT`: MB[1] = 1, MB[0] = 1, FLAG toggled (43_function.md R96; 90_conflicts.md C2, log entry 2). -/
def execFlgt (s : State) : Host.Outcome State Fault Refusal := .next { s with flag := nextFlag true true s.flag }

end Sys2Proof.Machine
end

