-- ==== Sys2Proof/Machine/Jump.lean ====
section
/-!
DEFINITION. Machine/Jump.lean: the decode steps of class `10`, 42_jump_spar.md R85, R86. The jump's target is computed in the
deferred cycle from MB (40_cycle_engine.md R62); hence `_page` and `_src` are not used here.
-/

namespace Sys2Proof.Machine

/-- `JMP`: defer (42_jump_spar.md R85). -/
def execJmp (_page : Nibble) (_src : Src) (s : State) : Host.Outcome State Fault Refusal :=
  .next { s with idis := true }

/-- `LSPA n`: `SPAR <- n` (42_jump_spar.md R86). -/
def execLspa (n : Nibble) (s : State) : Host.Outcome State Fault Refusal := .next { s with spar := n }

end Sys2Proof.Machine
end

