-- ==== Sys2Proof/Machine/ScratchpadStore.lean ====
section
/-!
DEFINITION. Machine/ScratchpadStore.lean: the one instruction that writes memory, 43_function.md R97.
-/

namespace Sys2Proof.Machine

/-- `STSR`: `SP[SPAR] <- SR` (43_function.md R97). -/
def execStsr (s : State) : Host.Outcome State Fault Refusal := .next (spWrite s.spar s.sr s)

end Sys2Proof.Machine
end

