-- ==== Sys2Proof/Machine/ShiftGroup.lean ====
section
/-!
DEFINITION. Machine/ShiftGroup.lean: the shift-register group, 43_function.md R102 to R105.
-/

namespace Sys2Proof.Machine

/-- `SHL0`: shift SR left, 0 in (43_function.md R102). -/
def execShl0 (s : State) : Host.Outcome State Fault Refusal := .next (shiftIn false s)

/-- `LDSR`: `SR <- CNTR` (43_function.md R103). -/
def execLdsr (s : State) : Host.Outcome State Fault Refusal := .next { s with sr := s.cntr }

/-- `SHL1`: shift SR left, 1 in (43_function.md R104). -/
def execShl1 (s : State) : Host.Outcome State Fault Refusal := .next (shiftIn true s)

/-- `SHLD`: shift SR left, the serial-data input in, which is constant 0 (43_function.md R105; log entry 8). -/
def execShld (s : State) : Host.Outcome State Fault Refusal := .next (shiftIn Config.sepData s)

end Sys2Proof.Machine
end

