-- ==== Sys2Proof/Machine/Unimplemented.lean ====
section
/-!
DEFINITION. Machine/Unimplemented.lean: the unimplemented function codes, 43_function.md R106, one meaning per row of the
opcode table. They are behaviour, not faults (30_encoding.md R53; log entry 18).
-/

namespace Sys2Proof.Machine

/-- `UNIMP`: no register changes, one event (43_function.md R106, 60_exceptions.md R114). -/
def unimplementedCode (s : State) : State := emit (.unimplementedInstruction s.ppc s.mb) s

/-- `UNIMP`, function codes 0 to 7 (43_function.md R106). The bits `_low` reach the event through MB. -/
def execUnimpLow (_low : BitVec 5) (s : State) : Host.Outcome State Fault Refusal := .next (unimplementedCode s)

/-- `UNIMP`, function code 8 (43_function.md R106). -/
def execUnimpMid (_low : BitVec 2) (s : State) : Host.Outcome State Fault Refusal := .next (unimplementedCode s)

/-- `UNIMP`, function codes 10 and 11 (43_function.md R106). -/
def execUnimpHigh (_low : BitVec 3) (s : State) : Host.Outcome State Fault Refusal := .next (unimplementedCode s)

end Sys2Proof.Machine
end

