-- ==== Sys2Proof/Machine/Dispatch.lean ====
section
/-!
DEFINITION. Machine/Dispatch.lean: the decode step, one arm per constructor of Instr, each a direct call of its meaning
(40_cycle_engine.md R64).
-/

namespace Sys2Proof.Machine

/-- The decode step of an instruction (40_cycle_engine.md R64). -/
def exec (i : Instr) (s : State) : Host.Outcome State Fault Refusal :=
  match i with
  | .unimpLow low => Sys2Proof.Machine.execUnimpLow low s
  | .unimpMid low => Sys2Proof.Machine.execUnimpMid low s
  | .barc => Sys2Proof.Machine.execBarc s
  | .barz => Sys2Proof.Machine.execBarz s
  | .bari => Sys2Proof.Machine.execBari s
  | .unimpHigh low => Sys2Proof.Machine.execUnimpHigh low s
  | .flgh => Sys2Proof.Machine.execFlgh s
  | .flgc => Sys2Proof.Machine.execFlgc s
  | .flgs => Sys2Proof.Machine.execFlgs s
  | .flgt => Sys2Proof.Machine.execFlgt s
  | .stsr => Sys2Proof.Machine.execStsr s
  | .ldci => Sys2Proof.Machine.execLdci s
  | .ldcs => Sys2Proof.Machine.execLdcs s
  | .inck => Sys2Proof.Machine.execInck s
  | .inc => Sys2Proof.Machine.execInc s
  | .shl0 => Sys2Proof.Machine.execShl0 s
  | .ldsr => Sys2Proof.Machine.execLdsr s
  | .shl1 => Sys2Proof.Machine.execShl1 s
  | .shld => Sys2Proof.Machine.execShld s
  | .br c pol src => Sys2Proof.Machine.execBr c pol src s
  | .lspa n => Sys2Proof.Machine.execLspa n s
  | .jmp page src => Sys2Proof.Machine.execJmp page src s
  | .wb c pol src => Sys2Proof.Machine.execWb c pol src s

end Sys2Proof.Machine
end

