-- ==== Sys2Proof/Machine/Cycle.lean ====
section
/-!
DEFINITION. Machine/Cycle.lean: one microcycle (40_cycle_engine.md R61).
-/

namespace Sys2Proof.Machine

/-- One microcycle: the deferred cycle when IDIS is set, else the fetch unless IREP is set and the decode step of the control
word then in MB (40_cycle_engine.md R61, R63, R64). -/
def cycle (s : State) : Host.Outcome State Fault Refusal :=
  if s.idis then .next (deferredCycle s)
  else exec (decodeWord (decodePoint s).mb) (decodePoint s)

end Sys2Proof.Machine
end

