-- ==== Sys2Proof/Machine/Step.lean ====
section
/-!
DEFINITION. Machine/Step.lean: the step, which is one microcycle (00_scope.md R4), the host's run (40_cycle_engine.md R60),
and the host's placing of one instruction. What they do is in the files they call.
-/

namespace Sys2Proof.Machine

/-- One step is one microcycle (00_scope.md R4, 40_cycle_engine.md R61). -/
def step (s : State) : Host.Outcome State Fault Refusal := cycle s

/-- `run(budget)`: that many microcycles (40_cycle_engine.md R60, R67; log entry 21). -/
def run : Nat → State → Host.Outcome State Fault Refusal
  | 0, s => .next s
  | budget + 1, s =>
    match step s with
    | .next t => run budget t
    | .fault r => .fault r
    | .refused r => .refused r

/-- `s` with the table's word `w` of `nbits` bits where the next step fetches: its two bytes at PC and at the slot address,
and an instruction boundary (log entry 14). -/
def State.withFetchWord (s : State) (nbits w : Nat) : State :=
  match tableBytes nbits w with
  | b0 :: b1 :: _ => placeAtFetch b0 b1 s
  | _ => s

end Sys2Proof.Machine
end

