-- ==== Sys2Proof/Safety.lean ====
section
/-!
DEFINITION. Safety.lean: the terms the claims use. Nothing can go wrong in a run of this core (60_exceptions.md R110), so a
safe run is one that keeps the invariant of 10_state.md R27 and, for claims about the real part, one whose trace holds no
diagnostic event (92_eei_decisions.md D18). The second half transcribes the spec's pseudocode of a cycle bit by bit, without
the decoder and the instructions, so that a claim can compare the two. Its `log` says what becomes of the events a cycle emits
(60_exceptions.md R115): `id` keeps them all, `fun _ => []` drops them.
-/

namespace Sys2Proof.Machine

/-- The state is at an instruction boundary (40_cycle_engine.md R70). -/
def atBoundary (s : State) : Prop := s.idis = false ∧ s.irep = false

/-- The invariant of 10_state.md R27: (a) IREP and IDIS are not both set, (b) IREP means MB is a `WB`, (c) IDIS means MB is a
deferring form, (f) CRC is 0; and the store is in its canonical form. The ranges of (d) are the types'. -/
def Inv (s : State) : Prop :=
  ¬(s.irep = true ∧ s.idis = true) ∧
  (s.irep = true → s.mb &&& 0xC0 = 0xC0) ∧
  (s.idis = true → s.mb.getLsbD 6 = true ∨ s.mb &&& 0xC2 = 0x82 ∨ s.mb &&& 0xFD = 0x38) ∧
  s.crc = 0 ∧
  Memory.wf s.rom = true

/-- The event is one of the two diagnostics (60_exceptions.md R110). -/
def Event.isDiagnostic : Event → Bool
  | .fetch _ => false
  | .unhandledBranchCondition _ _ => true
  | .unimplementedInstruction _ _ => true

/-- The event with its diagnostic address left out: the payload that PPC alone gives (60_exceptions.md R113, R114). -/
def Event.withoutPpc : Event → Event
  | .fetch pc => .fetch pc
  | .unhandledBranchCondition _ field => .unhandledBranchCondition 0 field
  | .unimplementedInstruction _ opcode => .unimplementedInstruction 0 opcode

/-- No diagnostic event has been emitted: the premise of 93_implementation_defined.md U1, U2 for claims about the real part. -/
def noDiagnostic (s : State) : Prop := ∀ e ∈ s.trace, e.isDiagnostic = false

/-- `Cond(f)` on the field in place, without its event (40_cycle_engine.md R66). -/
def bitCond (f : Byte) (s : State) : Bool :=
  if f = 0x10 then s.sr.getLsbD 7
  else if f = 0x14 then decide (s.cntr = 255)
  else if f = 0x18 then s.crc.getLsbD 0
  else if f = 0x3C then s.flag
  else true

/-- The events of `Cond(f)` (40_cycle_engine.md R66, 60_exceptions.md R113). -/
def bitCondEvents (f : Byte) (s : State) : List Event :=
  if f = 0x10 ∨ f = 0x14 ∨ f = 0x18 ∨ f = 0x3C then [] else [.unhandledBranchCondition s.ppc f]

/-- `Mux()` (40_cycle_engine.md R65). -/
def bitMux (s : State) : Byte := if s.mb.getLsbD 0 then spRead s.spar s else romRead s.pc s

/-- The fetch half of a decode cycle (40_cycle_engine.md R63), with `FETCH_KEEP = 0x000`. -/
def bitFetch (log : List Event → List Event) (s : State) : State :=
  if s.irep then s
  else
    { s with
      ppc := s.pc, mb := romRead s.pc s, pc := (s.pc + 1) &&& 0x07FF, trace := s.trace ++ log [.fetch s.pc] }

/-- The decode half of a decode cycle: the pseudocode of 40_cycle_engine.md R64 with the instruction rules put in. -/
def bitDecode (log : List Event → List Event) (s : State) : State :=
  let f := s.mb &&& 0x3C
  let m1 := s.mb.getLsbD 1
  let m0 := s.mb.getLsbD 0
  if s.mb.getLsbD 6 then
    let taken := bitCond f s == m1
    if s.mb.getLsbD 7 then
      { s with
        brc := taken
        idis := decide (s.cntr = 255) || taken
        irep := !decide (s.cntr = 255) && !taken
        cntr := s.cntr + 1
        trace := s.trace ++ log (bitCondEvents f s) }
    else { s with brc := taken, idis := true, trace := s.trace ++ log (bitCondEvents f s) }
  else if s.mb.getLsbD 7 then
    if m1 then { s with idis := true } else { s with spar := (f >>> 2).setWidth 4 }
  else if f = 0x24 then { s with bar := if m1 then s.bar + 1 else if m0 then 0x000 else 0x0C00 }
  else if f = 0x30 then { s with flag := (!m0 && s.flag) || (m1 && !s.flag) }
  else if f = 0x34 then spWrite s.spar s.sr s
  else if f = 0x38 then { s with cntr := if m1 then s.cntr + 1 else bitMux s, idis := !m0 }
  else if f = 0x3C then
    { s with
      sr := if m1 = false ∧ m0 = true then s.cntr
        else (s.sr <<< 1) ||| (if m0 then 0 else if m1 then 1 else 0) }
  else { s with trace := s.trace ++ log [.unimplementedInstruction s.ppc s.mb] }

/-- The deferred cycle (40_cycle_engine.md R62). -/
def bitDeferred (s : State) : State :=
  { s with
    pc :=
      if s.mb &&& 0xC2 = 0x82 then (((s.mb &&& 0x3C).setWidth 12) <<< 6) ||| (bitMux s).setWidth 12
      else if s.mb.getLsbD 6 = true ∧ s.brc = true then ((s.pc + 1) &&& 0x0F00) ||| (bitMux s).setWidth 12
      else s.pc + 1
    idis := false
    irep := false }

/-- The cycle (40_cycle_engine.md R61). -/
def bitCycle (log : List Event → List Event) (s : State) : State :=
  if s.idis then bitDeferred s else bitDecode log (bitFetch log s)

/-- What a `WB` held in MB compares at its decode number `k`: its condition, on CNTR counted up `k` times, against its polarity
(41_branch.md R79, `m(k)`). -/
def wbMatch (s : State) (k : Nat) : Bool :=
  bitCond (s.mb &&& 0x3C) { s with cntr := s.cntr + BitVec.ofNat 8 k } == s.mb.getLsbD 1

end Sys2Proof.Machine
end

