-- ==== Sys2Proof/Certificates/Slice0/Obligations.lean ====
section
/-!
DEFINITION. Certificates/Slice0/Obligations.lean: the statements for the provers. Each docstring names the rules of spec/ it
formalises. A rule that gives an instruction's whole effect is stated as the whole next state, so its frame is in the
equation: every field the record does not name is as before.
-/

open Sys2Proof Sys2Proof.Machine

/-! ## Encoding -/

/-- Words written out from 30_encoding.md R47, R50, R51 and 95_test_vectors.md decode to the instructions they stand for. -/
def Obligations.WrittenOutWordsDecode : Prop :=
  decodeWord 0b00000000 = .unimpLow 0 ∧ decodeWord 0b00100011 = .unimpMid 3 ∧ decodeWord 0b00101111 = .unimpHigh 7 ∧
  decodeWord 0b00100100 = .barc ∧ decodeWord 0b00110011 = .flgt ∧ decodeWord 0b00110111 = .stsr ∧
  decodeWord 0b00111000 = .ldci ∧ decodeWord 0b00111101 = .ldsr ∧ decodeWord 0b01010010 = .br .sr7 true .rom ∧
  decodeWord 0b01111101 = .br .flg false .sp ∧ decodeWord 0b11010110 = .wb .tc true .rom ∧
  decodeWord 0b10010010 = .jmp 4 .rom ∧ decodeWord 0b10111101 = .lspa 15

/-- 30_encoding.md R45, R47, R49: decoding the control word of any well-formed instruction gives it back, for every value of
every operand. -/
def Obligations.DecodeOfEncodeIsTheInstruction : Prop :=
  ∀ i : Instr, i.wellFormed = true → decodeWord (encodeWord i) = i

/-- 30_encoding.md R48: the bytes of any well-formed placed instruction, its slot byte with it, decode to it and leave the
bytes after them. -/
def Obligations.DecodeOfEncodedBytes : Prop :=
  ∀ (p : Placed) (rest : List Byte), p.wellFormed = true → decodeBytes (encode p ++ rest) = .ok (p, rest)

/-- 30_encoding.md R52, R55: every control word decodes to a well-formed instruction, whose encoding is the word with its
ignored bits clear. -/
def Obligations.EncodeOfDecodeClearsIgnoredBits : Prop :=
  ∀ b : Byte, (decodeWord b).wellFormed = true ∧ encodeWord (decodeWord b) = b &&& ~~~ ignoredBits b

/-- 30_encoding.md R52: two control words are the same instruction exactly when they differ in ignored bits only. -/
def Obligations.SameInstructionIffEqualOutsideIgnoredBits : Prop :=
  ∀ b b' : Byte, decodeWord b = decodeWord b' ↔ b &&& ~~~ ignoredBits b = b' &&& ~~~ ignoredBits b'

/-- 30_encoding.md R50: each of the 256 values lies in exactly one of the 23 rows of the opcode map, the row of the
instruction it decodes to. -/
def Obligations.OpcodeMapPartitionsTheWords : Prop :=
  opcodeMap.length = 23 ∧ ∀ b : Byte, opcodeMap.filter (fun r => r.covers b) = [(decodeWord b).row]

/-- 30_encoding.md R48: an instruction has two bytes exactly when its control word passes the bit test of a deferring form. -/
def Obligations.LengthFromTheWordAlone : Prop :=
  ∀ b : Byte, (decodeWord b).length = if b.getLsbD 6 = true ∨ b &&& 0xC2 = 0x82 ∨ b &&& 0xFD = 0x38 then 2 else 1

/-- 30_encoding.md R48, R55: a list of bytes is refused exactly when it has no control word, or ends before the slot byte of a
deferring form; each under its own name. -/
def Obligations.ByteListsRefusedByName : Prop :=
  ∀ (l : List Byte) (e : DecodeError), decodeBytes l = .error e ↔
    (l = [] ∧ e = .noControlWord) ∨
    (∃ b, l = [b] ∧ deferringWord b = true ∧ e = .noSlotByte (decodeWord b))

/-! ## The cycle -/

/-- 40_cycle_engine.md R61, R63: a step with IDIS set is the deferred cycle; with IDIS clear it is `exec` of the instruction MB
decodes to, in the state after the fetch, which IREP skips. That the fetch clears bit 11 of PC is the spec's decision D1
(90_conflicts.md C1; log entry 1). -/
def Obligations.StepRunsTheDecodedInstruction : Prop :=
  ∀ s : State,
    (s.idis = true → step s = .next (deferredCycle s)) ∧
    (s.idis = false → s.irep = true → step s = exec (decodeWord s.mb) s) ∧
    (s.idis = false → s.irep = false →
      step s = exec (decodeWord (romRead s.pc s))
        { s with
          ppc := s.pc, mb := romRead s.pc s, pc := (s.pc + 1) &&& 0x07FF, trace := s.trace ++ [.fetch s.pc] })

/-- 40_cycle_engine.md R62, R65: the deferred cycle writes PC, IDIS and IREP and nothing else, PC in three cases tested in this
order, with the multiplexed byte selected by MB bit 0. -/
def Obligations.DeferredCycleUpdatesPcOnly : Prop :=
  ∀ s : State, s.idis = true →
    step s = .next
      { s with
        pc :=
          if s.mb &&& 0xC2 = 0x82 then
            (((s.mb &&& 0x3C).setWidth 12) <<< 6) |||
              (if s.mb.getLsbD 0 then spRead s.spar s else romRead s.pc s).setWidth 12
          else if s.mb.getLsbD 6 = true ∧ s.brc = true then
            ((s.pc + 1) &&& 0x0F00) |||
              (if s.mb.getLsbD 0 then spRead s.spar s else romRead s.pc s).setWidth 12
          else (s.pc + 1) &&& 0x0FFF
        idis := false
        irep := false }

/-- 40_cycle_engine.md R61 to R66 with the instruction rules: every step is the bit-level pseudocode of the cycle
(`bitCycle` in Safety.lean, its events kept), which uses neither the decoder nor the instructions. That the fetch clears bit 11
of PC is the spec's decision D1 (90_conflicts.md C1; log entry 1), and the payloads of the two diagnostic events are its
decision D9 (log entry 10). -/
def Obligations.StepIsTheBitLevelPseudocode : Prop :=
  ∀ s : State, step s = .next (bitCycle id s)

/-- 40_cycle_engine.md R71: a cycle has exactly one successor and one list of events, and none fails. -/
def Obligations.EveryStepCompletes : Prop :=
  ∀ s : State, ∃ t new, step s = .next t ∧ t.trace = s.trace ++ new ∧ ∀ u, step s = .next u → u = t

/-- 40_cycle_engine.md R64 ("A decode step never writes PC, PPC or MB"): for every instruction. -/
def Obligations.DecodeStepNeverWritesPcPpcMb : Prop :=
  ∀ (i : Instr) (s t : State), exec i s = .next t → t.pc = s.pc ∧ t.ppc = s.ppc ∧ t.mb = s.mb

/-! ## What each instruction leaves alone -/

/-- 20_memory.md R33, R43; 43_function.md R97: no instruction changes a byte of the instruction store; `STSR` changes the cell
SPAR names and no other; every other instruction changes no cell. -/
def Obligations.FrameOfTheMemories : Prop :=
  ∀ (i : Instr) (s t : State), exec i s = .next t →
    (∀ a : Addr, romRead a t = romRead a s) ∧
    (∀ j : Nibble, (i = .stsr → j ≠ s.spar) → spRead j t = spRead j s)

/-- 10_state.md R17 to R22: the writers of CNTR, SR, SPAR, BAR and FLAG, for every instruction; CRC has none. -/
def Obligations.FrameOfTheDataRegisters : Prop :=
  ∀ (i : Instr) (s t : State), exec i s = .next t →
    (t.cntr ≠ s.cntr → i = .ldci ∨ i = .ldcs ∨ i = .inck ∨ i = .inc ∨ ∃ c pol src, i = .wb c pol src) ∧
    (t.sr ≠ s.sr → i = .ldsr ∨ i = .shl0 ∨ i = .shl1 ∨ i = .shld) ∧
    (t.spar ≠ s.spar → ∃ n, i = .lspa n) ∧
    (t.bar ≠ s.bar → i = .barc ∨ i = .barz ∨ i = .bari) ∧
    (t.flag ≠ s.flag → i = .flgc ∨ i = .flgs ∨ i = .flgt) ∧
    t.crc = s.crc

/-- 10_state.md R14 to R16: the writers of IDIS, IREP and BRC among the instructions, and who emits an event. -/
def Obligations.FrameOfTheControlBits : Prop :=
  ∀ (i : Instr) (s t : State), exec i s = .next t →
    (t.idis ≠ s.idis → i = .ldci ∨ i = .ldcs ∨ i = .inck ∨ i = .inc ∨ (∃ page src, i = .jmp page src) ∨
      (∃ c pol src, i = .br c pol src) ∨ ∃ c pol src, i = .wb c pol src) ∧
    (t.irep ≠ s.irep → ∃ c pol src, i = .wb c pol src) ∧
    (t.brc ≠ s.brc → (∃ c pol src, i = .br c pol src) ∨ ∃ c pol src, i = .wb c pol src) ∧
    (t.trace ≠ s.trace → (∃ low, i = .unimpLow low) ∨ (∃ low, i = .unimpMid low) ∨ (∃ low, i = .unimpHigh low) ∨
      (∃ code pol src, i = .br (.unimplemented code) pol src) ∨ ∃ code pol src, i = .wb (.unimplemented code) pol src)

/-- 10_state.md R12, R13: PPC and MB are written by the fetch and by nothing else in a step. -/
def Obligations.PpcAndMbWrittenByTheFetchOnly : Prop :=
  ∀ s t : State, step s = .next t →
    (s.idis = false ∧ s.irep = false → t.ppc = s.pc ∧ t.mb = romRead s.pc s) ∧
    (s.idis = true ∨ s.irep = true → t.ppc = s.ppc ∧ t.mb = s.mb)

/-- 20_memory.md R32, R43; 10_state.md R21, R24: over any step the instruction store and CRC keep their contents, and a cell of
the scratchpad that changes is the one SPAR names, in a cycle that decodes an `STSR` word, and it becomes SR. -/
def Obligations.StepWritesNoMemoryButTheStoredCell : Prop :=
  ∀ s t : State, step s = .next t →
    t.rom = s.rom ∧ t.crc = s.crc ∧
    ∀ j : Nibble, spRead j t ≠ spRead j s →
      s.idis = false ∧ (decodePoint s).mb &&& 0xFC = 0x34 ∧ j = s.spar ∧ spRead j t = s.sr

/-! ## The function class -/

/-- 43_function.md R90 to R92: the BAR group. -/
def Obligations.BarGroupResults : Prop :=
  decodeWord 0x24 = .barc ∧ decodeWord 0x25 = .barz ∧ decodeWord 0x26 = .bari ∧ decodeWord 0x27 = .bari ∧
  ∀ s : State,
    exec .barc s = .next { s with bar := 0x0C00 } ∧
    exec .barz s = .next { s with bar := 0x000 } ∧
    exec .bari s = .next { s with bar := (s.bar + 1) &&& 0x0FFF }

/-- 43_function.md R93 to R96: the FLAG group: hold, clear, set, toggle. -/
def Obligations.FlagGroupResults : Prop :=
  decodeWord 0x30 = .flgh ∧ decodeWord 0x31 = .flgc ∧ decodeWord 0x32 = .flgs ∧ decodeWord 0x33 = .flgt ∧
  ∀ s : State,
    exec .flgh s = .next s ∧
    exec .flgc s = .next { s with flag := false } ∧
    exec .flgs s = .next { s with flag := true } ∧
    exec .flgt s = .next { s with flag := !s.flag }

/-- 43_function.md R97: `STSR` writes SR to the cell SPAR names, and nothing else: every other cell and every other field are
as before. -/
def Obligations.StsrResult : Prop :=
  (∀ low : BitVec 2, decodeWord (0b001101#6 ++ low) = .stsr) ∧
  ∀ s : State, ∃ t, exec .stsr s = .next t ∧
    (∀ j : Nibble, spRead j t = if j = s.spar then s.sr else spRead j s) ∧
    t = { s with sp := t.sp }

/-- 43_function.md R98: `LDCI`: its encoding, its decode cycle and its two cycles from an instruction boundary. -/
def Obligations.LdciResult : Prop :=
  decodeWord 0x38 = .ldci ∧ Instr.length .ldci = 2 ∧
  (∀ s : State, exec .ldci s = .next { s with cntr := romRead s.pc s, idis := true }) ∧
  ∀ s : State, atBoundary s → romRead s.pc s = 0x38 →
    step s = .next { fetch s with cntr := romRead (fetch s).pc s, idis := true } ∧
    run 2 s = .next
      { fetch s with cntr := romRead (fetch s).pc s, pc := ((fetch s).pc + 1) &&& 0x0FFF, idis := false, irep := false }

/-- 43_function.md R99, R101: `LDCS` and `INC`: one byte, one cycle, IDIS written clear. -/
def Obligations.LdcsAndIncResults : Prop :=
  decodeWord 0x39 = .ldcs ∧ decodeWord 0x3B = .inc ∧ Instr.length .ldcs = 1 ∧ Instr.length .inc = 1 ∧
  ∀ s : State,
    exec .ldcs s = .next { s with cntr := spRead s.spar s, idis := false } ∧
    exec .inc s = .next { s with cntr := (s.cntr + 1) &&& 0xFF, idis := false }

/-- 43_function.md R100: `INCK`: its encoding, its decode cycle and its two cycles from an instruction boundary. -/
def Obligations.InckResult : Prop :=
  decodeWord 0x3A = .inck ∧ Instr.length .inck = 2 ∧
  (∀ s : State, exec .inck s = .next { s with cntr := (s.cntr + 1) &&& 0xFF, idis := true }) ∧
  ∀ s : State, atBoundary s → romRead s.pc s = 0x3A →
    step s = .next { fetch s with cntr := s.cntr + 1, idis := true } ∧
    run 2 s = .next
      { fetch s with cntr := s.cntr + 1, pc := ((fetch s).pc + 1) &&& 0x0FFF, idis := false, irep := false }

/-- 43_function.md R102 to R105: the shift-register group; the serial-data input of `SHLD` is 0. -/
def Obligations.ShiftGroupResults : Prop :=
  decodeWord 0x3C = .shl0 ∧ decodeWord 0x3D = .ldsr ∧ decodeWord 0x3E = .shl1 ∧ decodeWord 0x3F = .shld ∧
  ∀ s : State,
    exec .shl0 s = .next { s with sr := s.sr <<< 1 } ∧
    exec .ldsr s = .next { s with sr := s.cntr } ∧
    exec .shl1 s = .next { s with sr := (s.sr <<< 1) ||| 1 } ∧
    exec .shld s = .next { s with sr := s.sr <<< 1 }

/-- 43_function.md R106: every function-class word outside the five groups is an `UNIMP`, which changes nothing and emits
`UnimplementedInstruction(PPC, MB)`; that payload is the spec's decision D9 (log entry 10). -/
def Obligations.UnimpResults : Prop :=
  (∀ b : Byte, b &&& 0xC0 = 0 → b &&& 0x3C ≠ 0x24 → b &&& 0x3C ≠ 0x30 → b &&& 0x3C ≠ 0x34 → b &&& 0x3C ≠ 0x38 →
    b &&& 0x3C ≠ 0x3C →
    (∃ low, decodeWord b = .unimpLow low) ∨ (∃ low, decodeWord b = .unimpMid low) ∨ ∃ low, decodeWord b = .unimpHigh low) ∧
  ∀ s : State,
    (∀ low, exec (.unimpLow low) s = .next { s with trace := s.trace ++ [.unimplementedInstruction s.ppc s.mb] }) ∧
    (∀ low, exec (.unimpMid low) s = .next { s with trace := s.trace ++ [.unimplementedInstruction s.ppc s.mb] }) ∧
    (∀ low, exec (.unimpHigh low) s = .next { s with trace := s.trace ++ [.unimplementedInstruction s.ppc s.mb] })

/-- 43_function.md R107: the increments and the shift as arithmetic: modulo 256, 4096, 2048 and 256; the 2048 is the spec's
decision D1 (log entry 1). -/
def Obligations.ArithmeticWrapsSilently : Prop :=
  ∀ s : State,
    (∃ t, exec .inc s = .next t ∧ t.cntr.toNat = (s.cntr.toNat + 1) % 256) ∧
    (∃ t, exec .bari s = .next t ∧ t.bar.toNat = (s.bar.toNat + 1) % 4096) ∧
    (∃ t, exec .shl0 s = .next t ∧ t.sr.toNat = (2 * s.sr.toNat) % 256) ∧
    (∃ t, exec .shl1 s = .next t ∧ t.sr.toNat = (2 * s.sr.toNat + 1) % 256) ∧
    (slotAddress s.pc).toNat = (s.pc.toNat + 1) % 2048 ∧
    (fallThrough s.pc).toNat = (s.pc.toNat + 1) % 4096

/-- 20_memory.md R33 (the source's scratchpad round trip, 95_test_vectors.md S7): what `STSR` stores, `LDCS` loads while SPAR
is the same. -/
def Obligations.ScratchpadRoundTrip : Prop :=
  ∀ s t u : State, exec .stsr s = .next t → u.sp = t.sp → u.spar = s.spar →
    ∃ v, exec .ldcs u = .next v ∧ v.cntr = s.sr

/-! ## The branch class -/

/-- 40_cycle_engine.md R66, 30_encoding.md R51: the value and the event of the condition evaluator on every control word's
field, as the rule's four tests and default give them; the event's payload is the spec's decision D9 (log entry 10). -/
def Obligations.ConditionEvaluatorByField : Prop :=
  ∀ (b : Byte) (s : State),
    condValue (condOfField (wordField b)) s =
      (if b &&& 0x3C = 0x10 then s.sr.getLsbD 7
      else if b &&& 0x3C = 0x14 then decide (s.cntr = 255)
      else if b &&& 0x3C = 0x18 then s.crc.getLsbD 0
      else if b &&& 0x3C = 0x3C then s.flag
      else true) ∧
    condEvent (condOfField (wordField b)) s =
      (if b &&& 0x3C = 0x10 ∨ b &&& 0x3C = 0x14 ∨ b &&& 0x3C = 0x18 ∨ b &&& 0x3C = 0x3C then s
      else { s with trace := s.trace ++ [.unhandledBranchCondition s.ppc (b &&& 0x3C)] })

/-- 41_branch.md R75, R76: `BR`: its encoding, its decode cycle, and its two cycles from an instruction boundary. `condEvent` is
the event of an unimplemented condition (40_cycle_engine.md R66); the statement does not rest on its payload. -/
def Obligations.BrResult : Prop :=
  (∀ (cond : Nibble) (pol : Bool) (src : Src),
    decodeWord (0b01#2 ++ cond ++ bitOf pol ++ src.bit) = .br (condOfField cond) pol src) ∧
  (∀ (c : CondCode) (pol : Bool) (src : Src) (s : State),
    exec (.br c pol src) s = .next { condEvent c s with brc := condValue c s == pol, idis := true }) ∧
  ∀ (c : CondCode) (pol : Bool) (src : Src) (s : State), atBoundary s → decodeWord (romRead s.pc s) = .br c pol src →
    step s = .next { condEvent c (fetch s) with brc := condValue c s == pol, idis := true } ∧
    run 2 s = .next
      { condEvent c (fetch s) with
        brc := condValue c s == pol
        pc :=
          if condValue c s = pol then ((((fetch s).pc + 1) &&& 0x0F00) ||| (muxOf src (fetch s)).setWidth 12)
          else ((fetch s).pc + 1) &&& 0x0FFF
        idis := false
        irep := false }

/-- 41_branch.md R77: `WB`: its encoding and its decode step; afterwards exactly one of IDIS and IREP is set; with IREP set
the next step runs the decode step again on the same MB, without a fetch; with IDIS set (and MB a word of the branch class) the
next step is the deferred cycle, taken or not by BRC. -/
def Obligations.WbDecodeStep : Prop :=
  (∀ (cond : Nibble) (pol : Bool) (src : Src),
    decodeWord (0b11#2 ++ cond ++ bitOf pol ++ src.bit) = .wb (condOfField cond) pol src) ∧
  ∀ (c : CondCode) (pol : Bool) (src : Src) (s : State),
    ∃ t, exec (.wb c pol src) s = .next t ∧
      t = { condEvent c s with
            brc := condValue c s == pol
            idis := decide (s.cntr = 255) || (condValue c s == pol)
            irep := decide (s.cntr ≠ 255) && !(condValue c s == pol)
            cntr := (s.cntr + 1) &&& 0xFF } ∧
      t.idis = !t.irep ∧
      (t.irep = true → step t = exec (decodeWord t.mb) t) ∧
      (s.mb.getLsbD 6 = true → t.idis = true →
        step t = .next
          { t with
            pc := if t.brc = true then ((t.pc + 1) &&& 0x0F00) ||| (bitMux t).setWidth 12 else (t.pc + 1) &&& 0x0FFF
            idis := false
            irep := false })

/-- 41_branch.md R78: a taken `BR` or `WB` goes to the page of the address after the slot byte, with the multiplexed byte as
its low eight bits; and that page for a control word at any address below 0x800. -/
def Obligations.TakenBranchTarget : Prop :=
  (∀ s : State, s.idis = true → s.mb.getLsbD 6 = true → s.brc = true →
    ∃ t, step s = .next t ∧
      t.pc = (s.pc + 1).extractLsb' 8 4 ++ (if s.mb.getLsbD 0 then spRead s.spar s else romRead s.pc s)) ∧
  (∀ a : Addr, a ≤ 0x7FD → (slotAddress a + 1).extractLsb' 8 4 = (a + 2).extractLsb' 8 4) ∧
  (slotAddress 0x7FE + 1).extractLsb' 8 4 = (8 : Nibble) ∧
  (slotAddress 0x7FF + 1).extractLsb' 8 4 = (0 : Nibble) ∧
  ((0xFFF : Addr) + 1).extractLsb' 8 4 = (0 : Nibble)

/-- 41_branch.md R79 (a) to (d): from the first decode of any `WB` there is a last decode number `k`, at a match or at terminal
count, no earlier one; `k + 1` cycles bring the machine to the deferred cycle and one more ends it. Every other register and
both memories are as they were; the trace gains the events of the `k + 1` decodes, which are none for the four conditions the
core implements and else one a decode (R79 (h); 40_cycle_engine.md R66; 60_exceptions.md R113), whose payload is the spec's
decision D9 (log entry 10). -/
def Obligations.WbRunsToItsEnd : Prop :=
  ∀ s d : State, s.idis = false → d = decodePoint s → d.mb &&& 0xC0 = 0xC0 →
    ∃ k : Nat, d.cntr.toNat + k ≤ 255 ∧ (∀ j, j < k → wbMatch d j = false) ∧
      (wbMatch d k = true ∨ d.cntr.toNat + k = 255) ∧
      run (k + 1) s = .next
        { d with
          brc := wbMatch d k, idis := true, irep := false, cntr := d.cntr + BitVec.ofNat 8 (k + 1)
          trace := d.trace ++ (List.replicate (k + 1) (bitCondEvents (d.mb &&& 0x3C) d)).flatten } ∧
      run (k + 2) s = .next
        { d with
          brc := wbMatch d k, idis := false, irep := false, cntr := d.cntr + BitVec.ofNat 8 (k + 1)
          trace := d.trace ++ (List.replicate (k + 1) (bitCondEvents (d.mb &&& 0x3C) d)).flatten
          pc := if wbMatch d k then ((d.pc + 1) &&& 0x0F00) ||| (bitMux d).setWidth 12 else d.pc + 1 }

/-- 41_branch.md R79 (e), (h): a `WB` whose condition is not `TC` and does not match is a delay of `257 - CNTR` cycles that
leaves CNTR at 0 and falls through. -/
def Obligations.WbWithoutMatchIsADelay : Prop :=
  ∀ s d : State, s.idis = false → d = decodePoint s → d.mb &&& 0xC0 = 0xC0 → d.mb &&& 0x3C ≠ 0x14 →
    bitCond (d.mb &&& 0x3C) d ≠ d.mb.getLsbD 1 →
    ∃ t, run (257 - d.cntr.toNat) s = .next t ∧ t.cntr = 0 ∧ t.pc = d.pc + 1 ∧ atBoundary t ∧
      t = { d with
            brc := false, idis := false, irep := false, cntr := t.cntr, pc := t.pc, trace := t.trace }

/-- 41_branch.md R79 (f), (g): `WB` on the terminal count, to its end. Waiting for the count runs the counter out and branches;
waiting for its absence branches after one decode, unless CNTR is 255: then it falls through after one. `t` is the state after
the last decode and `u` the one after the deferred cycle; the condition emits no event. -/
def Obligations.WbOnTerminalCount : Prop :=
  ∀ s d : State, s.idis = false → d = decodePoint s → d.mb &&& 0xFC = 0xD4 →
    (d.mb.getLsbD 1 = true →
      ∃ t u, run (256 - d.cntr.toNat) s = .next t ∧ t = { d with brc := true, idis := true, irep := false, cntr := 0 } ∧
        step t = .next u ∧ u =
          { d with
            brc := true, idis := false, irep := false, cntr := 0
            pc := ((d.pc + 1) &&& 0x0F00) ||| (bitMux d).setWidth 12 }) ∧
    (d.mb.getLsbD 1 = false → d.cntr ≠ 255 →
      ∃ t u, step s = .next t ∧ t = { d with brc := true, idis := true, irep := false, cntr := d.cntr + 1 } ∧
        step t = .next u ∧ u =
          { d with
            brc := true, idis := false, irep := false, cntr := d.cntr + 1
            pc := ((d.pc + 1) &&& 0x0F00) ||| (bitMux d).setWidth 12 }) ∧
    (d.mb.getLsbD 1 = false → d.cntr = 255 →
      ∃ t u, step s = .next t ∧ t = { d with brc := false, idis := true, irep := false, cntr := 0 } ∧
        step t = .next u ∧ u = { d with brc := false, idis := false, irep := false, cntr := 0, pc := d.pc + 1 })

/-! ## Class `10` -/

/-- 42_jump_spar.md R85: `JMP`: its encoding, its decode cycle, and its two cycles from an instruction boundary: all twelve
bits of PC replaced, the page by the word's field and the low byte by the multiplexed one. -/
def Obligations.JmpResult : Prop :=
  (∀ (page : Nibble) (src : Src), decodeWord (0b10#2 ++ page ++ 1#1 ++ src.bit) = .jmp page src) ∧
  (∀ (page : Nibble) (src : Src) (s : State), exec (.jmp page src) s = .next { s with idis := true }) ∧
  ∀ (page : Nibble) (src : Src) (s : State), atBoundary s → decodeWord (romRead s.pc s) = .jmp page src →
    step s = .next { fetch s with idis := true } ∧
    run 2 s = .next { fetch s with pc := page ++ muxOf src (fetch s), idis := false, irep := false }

/-- 42_jump_spar.md R86: `LSPA`: its encoding, bit 0 ignored, and its result. -/
def Obligations.LspaResult : Prop :=
  (∀ (n : Nibble) (x : BitVec 1), decodeWord (0b10#2 ++ n ++ 0#1 ++ x) = .lspa n) ∧ (∀ n, Instr.length (.lspa n) = 1) ∧
  ∀ (n : Nibble) (s : State), exec (.lspa n) s = .next { s with spar := n }

/-! ## Hazards and timing -/

/-- 70_reset_and_hazards.md R133, R134; 95_test_vectors.md S3: a run of `n` one-byte instructions from a boundary leaves PC at
`(PC0 + n) mod 2048`, whatever bit 11 of PC0 was, and changes no byte of the store. It rests on the spec's decision D1 (log
entry 1). -/
def Obligations.StraightLineFetchWrapsAt2048 : Prop :=
  ∀ (n : Nat) (s : State), atBoundary s → 0 < n →
    (∀ k, k < n → deferringWord (Memory.read s.rom (if k = 0 then s.pc.toNat else (s.pc.toNat + k) % 2048)) = false) →
    ∃ t, run n s = .next t ∧ atBoundary t ∧ t.pc.toNat = (s.pc.toNat + n) % 2048 ∧ t.rom = s.rom

/-- 70_reset_and_hazards.md R130, R131: `LDCI`, `INCK` and a `BR` that is not taken go on at the address after the slot byte,
whether it was read or not. -/
def Obligations.SlotByteIsSteppedOver : Prop :=
  ∀ s : State, atBoundary s →
    (romRead s.pc s = 0x38 ∨ romRead s.pc s = 0x3A ∨
      (romRead s.pc s &&& 0xC0 = 0x40 ∧ bitCond (romRead s.pc s &&& 0x3C) s ≠ (romRead s.pc s).getLsbD 1)) →
    ∃ t, run 2 s = .next t ∧ atBoundary t ∧ t.pc = slotAddress s.pc + 1

/-- 70_reset_and_hazards.md R140: from a boundary a one-byte instruction is back at a boundary after one cycle; `LDCI`, `INCK`,
`JMP` and `BR` after two and not after one. -/
def Obligations.CycleCounts : Prop :=
  ∀ s : State, atBoundary s →
    (deferringWord (romRead s.pc s) = false → ∃ t, step s = .next t ∧ atBoundary t) ∧
    (deferringWord (romRead s.pc s) = true → romRead s.pc s &&& 0xC0 ≠ 0xC0 →
      ∃ t u, step s = .next t ∧ t.idis = true ∧ t.irep = false ∧ step t = .next u ∧ atBoundary u)

/-- 40_cycle_engine.md R69: a run of `a` cycles and then of `b` is the run of `a + b`, trace and all. -/
def Obligations.RunSplits : Prop :=
  ∀ (a b : Nat) (s : State), ∃ t, run a s = .next t ∧ run (a + b) s = run b t

/-! ## Reset -/

/-- 70_reset_and_hazards.md R125, R126: reset zeroes or clears every register and leaves both memories and the trace. That BRC
is among them is the spec's decision D7 (log entry 9). -/
def Obligations.ResetOperation : Prop :=
  ∀ s : State,
    resetCore s =
      { pc := 0x000, ppc := 0x000, mb := 0x00, idis := false, irep := false, brc := false, cntr := 0x00, sr := 0x00
        spar := 0x0, bar := 0x000, crc := 0, flag := false, sp := s.sp, rom := s.rom, trace := s.trace }

/-- 70_reset_and_hazards.md R127, R128: whatever the state before it, a pending deferred update included, the first cycle after
reset fetches at address 0 and decodes the word there. -/
def Obligations.FirstCycleAfterReset : Prop :=
  ∀ s : State,
    step (resetCore s) =
      exec (decodeWord (Memory.read s.rom 0))
        { resetCore s with mb := Memory.read s.rom 0, pc := 0x001, trace := s.trace ++ [.fetch 0x000] }

/-- 70_reset_and_hazards.md R125: the registers of the model's reset state (BRC by the spec's decision D7, the width of CRC by
D5; log entries 7, 9), which is what the reset operation makes of any state but for the memories and the trace. -/
def Obligations.ResetStateRegisters : Prop :=
  State.reset.pc = 0 ∧ State.reset.ppc = 0 ∧ State.reset.mb = 0 ∧ State.reset.idis = false ∧ State.reset.irep = false ∧
  State.reset.brc = false ∧ State.reset.cntr = 0 ∧ State.reset.sr = 0 ∧ State.reset.spar = 0 ∧ State.reset.bar = 0 ∧
  State.reset.crc = 0 ∧ State.reset.flag = false ∧ ∀ s : State, resetCore s = { State.reset with sp := s.sp, rom := s.rom, trace := s.trace }

/-! ## Invariants -/

/-- 10_state.md R27: the invariant holds at reset. Its clause on the store is the model's form (log entry 5). -/
def Obligations.InvariantAtReset : Prop := Inv State.reset

/-- 10_state.md R27 (a), (b), (c), (f): every step from a state with the invariant keeps it, states no run reaches among them.
Its clause on the store is the model's form (log entry 5). -/
def Obligations.EveryStepKeepsTheInvariant : Prop :=
  ∀ s t : State, Inv s → step s = .next t → Inv t

/-- 10_state.md R27 (e): whenever a step leaves a deferred cycle pending whose MB is a `BR` or `WB`, that same step wrote BRC
from the word now in MB. -/
def Obligations.BrcIsFreshWhenRead : Prop :=
  ∀ s t : State, step s = .next t → t.idis = true → t.mb.getLsbD 6 = true →
    t.mb = (decodePoint s).mb ∧ t.brc = (bitCond (t.mb &&& 0x3C) (decodePoint s) == t.mb.getLsbD 1)

/-- The model's form of the store (log entry 5; 20_memory.md R31): two canonical memories with bytes placed at the same
addresses, which read the same there, are the same data. -/
def Obligations.CanonicalStoreIsDeterminedByItsBytes : Prop :=
  ∀ m m' : Memory, Memory.wf m = true → Memory.wf m' = true →
    (∀ a : Addr, (Memory.placed m a.toNat).isSome = (Memory.placed m' a.toNat).isSome) →
    (∀ a : Addr, (Memory.placed m a.toNat).isSome = true → Memory.read m a.toNat = Memory.read m' a.toNat) → m = m'

/-- 20_memory.md R31, 00_scope.md R5 (`ROM`, a total function that is the model's argument): every contents of the 4096 cells
is the store of some state, whatever the rest of the state, and whatever unplaced cells read as (log entry 5). -/
def Obligations.EveryContentsIsAStore : Prop :=
  ∀ (f : Addr → Byte) (s : State), ∃ m : Memory, Memory.wf m = true ∧ ∀ a : Addr, romRead a { s with rom := m } = f a

/-! ## Events -/

/-- 60_exceptions.md R112 to R114, R116: the events of a cycle: a `Fetch` exactly when it fetches, then at most one diagnostic,
with the payloads of log entry 10. -/
def Obligations.EventsOfACycle : Prop :=
  ∀ s : State, ∃ t new, step s = .next t ∧ t.trace = s.trace ++ new ∧
    (new.filter Event.isDiagnostic).length ≤ 1 ∧
    new =
      if s.idis = true then []
      else
        (if s.irep = true then [] else [.fetch s.pc]) ++
          (if (decodePoint s).mb.getLsbD 6 = true then bitCondEvents ((decodePoint s).mb &&& 0x3C) (decodePoint s)
          else if (decodePoint s).mb.getLsbD 7 = false ∧
            (decodePoint s).mb &&& 0x3C ∉ ([0x24, 0x30, 0x34, 0x38, 0x3C] : List Byte) then
            [.unimplementedInstruction (decodePoint s).ppc (decodePoint s).mb]
          else [])

/-- 93_implementation_defined.md U1, U2; 30_encoding.md R53, R54: a trace free of diagnostics stays so over a cycle exactly when
the cycle decodes no unimplemented condition and no unimplemented function code. -/
def Obligations.NoDiagnosticWithoutAFallback : Prop :=
  ∀ s t : State, noDiagnostic s → step s = .next t →
    (noDiagnostic t ↔
      (s.idis = true ∨
        (∀ c pol src, decodeWord (decodePoint s).mb = .br c pol src ∨ decodeWord (decodePoint s).mb = .wb c pol src →
          c = .sr7 ∨ c = .tc ∨ c = .crc0 ∨ c = .flg) ∧
        (decodeWord (decodePoint s).mb).row.mnemonic ≠ "UNIMP"))

/-- 60_exceptions.md R115: events change nothing. A step gives the registers and memories of the cycle with every event dropped
(`bitCycle` in Safety.lean with a log that drops them), and its own events after the old trace; those events and that result
are the same whatever the old trace was; and over any number of cycles a machine that drops the trace has the same registers
and memories. -/
def Obligations.EventsChangeNothing : Prop :=
  (∀ s : State, ∃ t new, step s = .next t ∧ t = { bitCycle (fun _ => []) s with trace := s.trace ++ new } ∧
    ∀ tr, step { s with trace := tr } = .next { t with trace := tr ++ new }) ∧
  ∀ (n : Nat) (s : State), ∃ t, run n s = .next t ∧ t = { (bitCycle fun _ => [])^[n] s with trace := t.trace }

/-! ## What a step cannot learn -/

/-- 10_state.md R12 ("never read by logic"): two states that differ in PPC step to states that agree in every other register and
in both memories; after the old trace each step appends the same events but for the address of a diagnostic; and a cycle that
fetches leaves no difference at all. -/
def Obligations.PpcIsReadByNoLogic : Prop :=
  ∀ (s : State) (p : Addr), ∃ t t' new new', step s = .next t ∧ step { s with ppc := p } = .next t' ∧
    t.trace = s.trace ++ new ∧ t'.trace = s.trace ++ new' ∧
    new'.map Event.withoutPpc = new.map Event.withoutPpc ∧
    t' = { t with ppc := t'.ppc, trace := t'.trace } ∧
    (s.idis = false → s.irep = false → t' = t)

/-- 10_state.md R20 ("Readers: none in the core"): two states that differ in BAR step to states that differ in BAR only. -/
def Obligations.BarIsReadByNothing : Prop :=
  ∀ (s : State) (v : Addr), ∃ t t', step s = .next t ∧ step { s with bar := v } = .next t' ∧
    t' = { t with bar := t'.bar }

/-- 20_memory.md R31, R34: a step reads the store at PC and at the slot address only. -/
def Obligations.StepReadsTheStoreAtPcAndSlot : Prop :=
  ∀ (s : State) (m : Memory),
    Memory.read m s.pc.toNat = Memory.read s.rom s.pc.toNat →
    Memory.read m (slotAddress s.pc).toNat = Memory.read s.rom (slotAddress s.pc).toNat →
    ∃ t, step s = .next t ∧ step { s with rom := m } = .next { t with rom := m }

/-- 20_memory.md R32: a step reads the scratchpad at the cell SPAR names only. Two states that agree in that cell step to states
that agree in it and in everything but the scratchpad, and each keeps its own other cells. -/
def Obligations.StepReadsTheScratchpadAtSparOnly : Prop :=
  ∀ (s : State) (v : Vector Byte 16), spRead s.spar { s with sp := v } = spRead s.spar s →
    ∃ t t', step s = .next t ∧ step { s with sp := v } = .next t' ∧ t' = { t with sp := t'.sp } ∧
      spRead s.spar t' = spRead s.spar t ∧
      ∀ j : Nibble, j ≠ s.spar → spRead j t = spRead j s ∧ spRead j t' = spRead j { s with sp := v }

/-! ## Placing an instruction -/

/-- The model's `withFetchWord` (log entry 14): from any state with a canonical store, placing a table word and stepping runs
the instruction that `decodeTableWord` reads, in the state after its fetch. -/
def Obligations.PlacedWordRunsNext : Prop :=
  ∀ (s : State) (nbits w : Nat), Memory.wf s.rom = true →
    ∃ i, decodeTableWord nbits w = some i ∧ i = decodeWord (BitVec.ofNat 8 (w % 2 ^ nbits)) ∧
      step (s.withFetchWord nbits w) = exec i (fetch (s.withFetchWord nbits w)) ∧
      (fetch (s.withFetchWord nbits w)).mb = BitVec.ofNat 8 (w % 2 ^ nbits) ∧
      muxOf .rom (fetch (s.withFetchWord nbits w)) = BitVec.ofNat 8 (w % 2 ^ nbits / 256) ∧
      Memory.wf (s.withFetchWord nbits w).rom = true
end

