-- ==== Sys2Proof/Laws/Memory.lean ====
section
/-!
SUPPORT. Laws/Memory.lean: what the operations on the two memories do: reads after writes, and the canonical form.
-/

namespace Sys2Proof.Machine

@[simp] theorem Memory.placed_nil (a : Nat) : Memory.placed [] a = none := rfl

theorem Memory.placed_cons (b : Nat) (v : Byte) (m : Memory) (a : Nat) :
    Memory.placed ((b, v) :: m) a = if a = b then some v else Memory.placed m a := rfl

/-- Where no byte was placed a read gives the free value of that address. -/
theorem Memory.read_unplaced {m : Memory} {a : Nat} (h : Memory.placed m a = none) :
    Memory.read m a = Config.romInit a := by
  rw [Memory.read, h]
  rfl

/-- Where a byte was placed a read gives it. -/
theorem Memory.read_placed {m : Memory} {a : Nat} {v : Byte} (h : Memory.placed m a = some v) : Memory.read m a = v := by
  rw [Memory.read, h]
  rfl

/-- The canonical form from a higher address holds from a lower one. -/
theorem Memory.wfFrom_mono {m : Memory} {lo lo' : Nat} (h : lo ≤ lo') (hw : Memory.wfFrom lo' m = true) :
    Memory.wfFrom lo m = true := by
  cases m with
  | nil => rfl
  | cons c m =>
    simp only [Memory.wfFrom, Bool.and_eq_true, decide_eq_true_eq] at hw ⊢
    exact ⟨⟨h.trans hw.1.1, hw.1.2⟩, hw.2⟩

/-- Below its first address a canonical memory has no placed byte. -/
theorem Memory.placed_below {m : Memory} {lo a : Nat} (hw : Memory.wfFrom lo m = true) (h : a < lo) :
    Memory.placed m a = none := by
  induction m generalizing lo with
  | nil => rfl
  | cons c m ih =>
    simp only [Memory.wfFrom, Bool.and_eq_true, decide_eq_true_eq] at hw
    rw [Memory.placed, if_neg (by omega)]
    exact ih hw.2 (by omega)

/-- What is placed after a write: the byte written at its address, what was placed before elsewhere. -/
theorem Memory.placed_write (m : Memory) (a : Nat) (v : Byte) (a' : Nat) :
    Memory.placed (Memory.write m a v) a' = if a' = a then some v else Memory.placed m a' := by
  induction m with
  | nil => rfl
  | cons c m ih =>
    simp only [Memory.write]
    split
    · rfl
    · split <;> simp only [Memory.placed, ih] <;> grind

/-- A read after a write: the byte written at its address, the old byte elsewhere. -/
theorem Memory.read_write (m : Memory) (a : Nat) (v : Byte) (a' : Nat) :
    Memory.read (Memory.write m a v) a' = if a' = a then v else Memory.read m a' := by
  simp only [Memory.read, Memory.placed_write]
  split <;> rfl

/-- A write inside the store keeps the canonical form. -/
theorem Memory.wfFrom_write {m : Memory} {lo a : Nat} (v : Byte) (hw : Memory.wfFrom lo m = true) (hlo : lo ≤ a)
    (ha : a < Memory.size) : Memory.wfFrom lo (Memory.write m a v) = true := by
  induction m generalizing lo with
  | nil => simp [Memory.write, Memory.wfFrom, hlo, ha]
  | cons c m ih =>
    obtain ⟨b, w⟩ := c
    simp only [Memory.wfFrom, Bool.and_eq_true, decide_eq_true_eq] at hw
    simp only [Memory.write]
    split
    · simp_all [Memory.wfFrom]
    · split
      · simp_all [Memory.wfFrom]
      · simp only [Memory.wfFrom, Bool.and_eq_true, decide_eq_true_eq]
        exact ⟨hw.1, ih hw.2 (by omega)⟩

/-- Every write of the model keeps the canonical form of the store. -/
theorem Memory.wf_write {m : Memory} (a : Addr) (v : Byte) (hw : Memory.wf m = true) :
    Memory.wf (Memory.write m a.toNat v) = true :=
  Memory.wfFrom_write v hw (Nat.zero_le _) a.isLt

/-- The store after reset is canonical. -/
theorem Memory.wf_reset : Memory.wf State.reset.rom = true := rfl

/-- `romRead` sees nothing of a state but its store. -/
theorem romRead_congr {s t : State} (h : t.rom = s.rom) (a : Addr) : romRead a t = romRead a s := by
  simp [romRead, h]

/-- `spRead` sees nothing of a state but its scratchpad. -/
theorem spRead_congr {s t : State} (h : t.sp = s.sp) (i : Nibble) : spRead i t = spRead i s := by
  simp [spRead, h]

/-- A scratchpad read after a write (20_memory.md R33). -/
theorem spRead_spWrite (i j : Nibble) (v : Byte) (s : State) :
    spRead j (spWrite i v s) = if j = i then v else spRead j s := by
  simp only [spRead, spWrite]
  split
  · subst j; simp
  · next h =>
    rw [Vector.getElem_set_ne]
    intro e
    exact h (BitVec.eq_of_toNat_eq e.symm)

end Sys2Proof.Machine
end

