-- ==== Sys2Proof/Laws/State.lean ====
section
/-!
SUPPORT. Laws/State.lean: for each named operation on State, what it leaves in each field; the fields of a plain record
update are Lean's own.
-/

namespace Sys2Proof.Machine

/-! ### emit -/

@[simp] theorem emit_pc (e : Event) (s : State) : (emit e s).pc = s.pc := rfl
@[simp] theorem emit_ppc (e : Event) (s : State) : (emit e s).ppc = s.ppc := rfl
@[simp] theorem emit_mb (e : Event) (s : State) : (emit e s).mb = s.mb := rfl
@[simp] theorem emit_idis (e : Event) (s : State) : (emit e s).idis = s.idis := rfl
@[simp] theorem emit_irep (e : Event) (s : State) : (emit e s).irep = s.irep := rfl
@[simp] theorem emit_brc (e : Event) (s : State) : (emit e s).brc = s.brc := rfl
@[simp] theorem emit_cntr (e : Event) (s : State) : (emit e s).cntr = s.cntr := rfl
@[simp] theorem emit_sr (e : Event) (s : State) : (emit e s).sr = s.sr := rfl
@[simp] theorem emit_spar (e : Event) (s : State) : (emit e s).spar = s.spar := rfl
@[simp] theorem emit_bar (e : Event) (s : State) : (emit e s).bar = s.bar := rfl
@[simp] theorem emit_crc (e : Event) (s : State) : (emit e s).crc = s.crc := rfl
@[simp] theorem emit_flag (e : Event) (s : State) : (emit e s).flag = s.flag := rfl
@[simp] theorem emit_sp (e : Event) (s : State) : (emit e s).sp = s.sp := rfl
@[simp] theorem emit_rom (e : Event) (s : State) : (emit e s).rom = s.rom := rfl
@[simp] theorem emit_trace (e : Event) (s : State) : (emit e s).trace = s.trace ++ [e] := rfl

/-! ### spWrite -/

@[simp] theorem spWrite_pc (i : Nibble) (v : Byte) (s : State) : (spWrite i v s).pc = s.pc := rfl
@[simp] theorem spWrite_ppc (i : Nibble) (v : Byte) (s : State) : (spWrite i v s).ppc = s.ppc := rfl
@[simp] theorem spWrite_mb (i : Nibble) (v : Byte) (s : State) : (spWrite i v s).mb = s.mb := rfl
@[simp] theorem spWrite_idis (i : Nibble) (v : Byte) (s : State) : (spWrite i v s).idis = s.idis := rfl
@[simp] theorem spWrite_irep (i : Nibble) (v : Byte) (s : State) : (spWrite i v s).irep = s.irep := rfl
@[simp] theorem spWrite_brc (i : Nibble) (v : Byte) (s : State) : (spWrite i v s).brc = s.brc := rfl
@[simp] theorem spWrite_cntr (i : Nibble) (v : Byte) (s : State) : (spWrite i v s).cntr = s.cntr := rfl
@[simp] theorem spWrite_sr (i : Nibble) (v : Byte) (s : State) : (spWrite i v s).sr = s.sr := rfl
@[simp] theorem spWrite_spar (i : Nibble) (v : Byte) (s : State) : (spWrite i v s).spar = s.spar := rfl
@[simp] theorem spWrite_bar (i : Nibble) (v : Byte) (s : State) : (spWrite i v s).bar = s.bar := rfl
@[simp] theorem spWrite_crc (i : Nibble) (v : Byte) (s : State) : (spWrite i v s).crc = s.crc := rfl
@[simp] theorem spWrite_flag (i : Nibble) (v : Byte) (s : State) : (spWrite i v s).flag = s.flag := rfl
@[simp] theorem spWrite_sp (i : Nibble) (v : Byte) (s : State) : (spWrite i v s).sp = s.sp.set i.toNat v i.isLt := rfl
@[simp] theorem spWrite_rom (i : Nibble) (v : Byte) (s : State) : (spWrite i v s).rom = s.rom := rfl
@[simp] theorem spWrite_trace (i : Nibble) (v : Byte) (s : State) : (spWrite i v s).trace = s.trace := rfl

/-! ### countUp -/

@[simp] theorem countUp_pc (s : State) : (countUp s).pc = s.pc := rfl
@[simp] theorem countUp_ppc (s : State) : (countUp s).ppc = s.ppc := rfl
@[simp] theorem countUp_mb (s : State) : (countUp s).mb = s.mb := rfl
@[simp] theorem countUp_idis (s : State) : (countUp s).idis = s.idis := rfl
@[simp] theorem countUp_irep (s : State) : (countUp s).irep = s.irep := rfl
@[simp] theorem countUp_brc (s : State) : (countUp s).brc = s.brc := rfl
@[simp] theorem countUp_cntr (s : State) : (countUp s).cntr = s.cntr + 1 := rfl
@[simp] theorem countUp_sr (s : State) : (countUp s).sr = s.sr := rfl
@[simp] theorem countUp_spar (s : State) : (countUp s).spar = s.spar := rfl
@[simp] theorem countUp_bar (s : State) : (countUp s).bar = s.bar := rfl
@[simp] theorem countUp_crc (s : State) : (countUp s).crc = s.crc := rfl
@[simp] theorem countUp_flag (s : State) : (countUp s).flag = s.flag := rfl
@[simp] theorem countUp_sp (s : State) : (countUp s).sp = s.sp := rfl
@[simp] theorem countUp_rom (s : State) : (countUp s).rom = s.rom := rfl
@[simp] theorem countUp_trace (s : State) : (countUp s).trace = s.trace := rfl

/-! ### shiftIn -/

@[simp] theorem shiftIn_pc (b : Bool) (s : State) : (shiftIn b s).pc = s.pc := rfl
@[simp] theorem shiftIn_ppc (b : Bool) (s : State) : (shiftIn b s).ppc = s.ppc := rfl
@[simp] theorem shiftIn_mb (b : Bool) (s : State) : (shiftIn b s).mb = s.mb := rfl
@[simp] theorem shiftIn_idis (b : Bool) (s : State) : (shiftIn b s).idis = s.idis := rfl
@[simp] theorem shiftIn_irep (b : Bool) (s : State) : (shiftIn b s).irep = s.irep := rfl
@[simp] theorem shiftIn_brc (b : Bool) (s : State) : (shiftIn b s).brc = s.brc := rfl
@[simp] theorem shiftIn_cntr (b : Bool) (s : State) : (shiftIn b s).cntr = s.cntr := rfl
@[simp] theorem shiftIn_sr (b : Bool) (s : State) : (shiftIn b s).sr = (s.sr <<< 1) ||| (BitVec.ofBool b).setWidth 8 := rfl
@[simp] theorem shiftIn_spar (b : Bool) (s : State) : (shiftIn b s).spar = s.spar := rfl
@[simp] theorem shiftIn_bar (b : Bool) (s : State) : (shiftIn b s).bar = s.bar := rfl
@[simp] theorem shiftIn_crc (b : Bool) (s : State) : (shiftIn b s).crc = s.crc := rfl
@[simp] theorem shiftIn_flag (b : Bool) (s : State) : (shiftIn b s).flag = s.flag := rfl
@[simp] theorem shiftIn_sp (b : Bool) (s : State) : (shiftIn b s).sp = s.sp := rfl
@[simp] theorem shiftIn_rom (b : Bool) (s : State) : (shiftIn b s).rom = s.rom := rfl
@[simp] theorem shiftIn_trace (b : Bool) (s : State) : (shiftIn b s).trace = s.trace := rfl

/-! ### resetCore -/

@[simp] theorem resetCore_pc (s : State) : (resetCore s).pc = 0 := rfl
@[simp] theorem resetCore_ppc (s : State) : (resetCore s).ppc = 0 := rfl
@[simp] theorem resetCore_mb (s : State) : (resetCore s).mb = 0 := rfl
@[simp] theorem resetCore_idis (s : State) : (resetCore s).idis = false := rfl
@[simp] theorem resetCore_irep (s : State) : (resetCore s).irep = false := rfl
@[simp] theorem resetCore_brc (s : State) : (resetCore s).brc = false := rfl
@[simp] theorem resetCore_cntr (s : State) : (resetCore s).cntr = 0 := rfl
@[simp] theorem resetCore_sr (s : State) : (resetCore s).sr = 0 := rfl
@[simp] theorem resetCore_spar (s : State) : (resetCore s).spar = 0 := rfl
@[simp] theorem resetCore_bar (s : State) : (resetCore s).bar = 0 := rfl
@[simp] theorem resetCore_crc (s : State) : (resetCore s).crc = 0 := rfl
@[simp] theorem resetCore_flag (s : State) : (resetCore s).flag = false := rfl
@[simp] theorem resetCore_sp (s : State) : (resetCore s).sp = s.sp := rfl
@[simp] theorem resetCore_rom (s : State) : (resetCore s).rom = s.rom := rfl
@[simp] theorem resetCore_trace (s : State) : (resetCore s).trace = s.trace := rfl

/-! ### fetch -/

@[simp] theorem fetch_pc (s : State) : (fetch s).pc = slotAddress s.pc := rfl
@[simp] theorem fetch_ppc (s : State) : (fetch s).ppc = s.pc := rfl
@[simp] theorem fetch_mb (s : State) : (fetch s).mb = romRead s.pc s := rfl
@[simp] theorem fetch_idis (s : State) : (fetch s).idis = s.idis := rfl
@[simp] theorem fetch_irep (s : State) : (fetch s).irep = s.irep := rfl
@[simp] theorem fetch_brc (s : State) : (fetch s).brc = s.brc := rfl
@[simp] theorem fetch_cntr (s : State) : (fetch s).cntr = s.cntr := rfl
@[simp] theorem fetch_sr (s : State) : (fetch s).sr = s.sr := rfl
@[simp] theorem fetch_spar (s : State) : (fetch s).spar = s.spar := rfl
@[simp] theorem fetch_bar (s : State) : (fetch s).bar = s.bar := rfl
@[simp] theorem fetch_crc (s : State) : (fetch s).crc = s.crc := rfl
@[simp] theorem fetch_flag (s : State) : (fetch s).flag = s.flag := rfl
@[simp] theorem fetch_sp (s : State) : (fetch s).sp = s.sp := rfl
@[simp] theorem fetch_rom (s : State) : (fetch s).rom = s.rom := rfl
@[simp] theorem fetch_trace (s : State) : (fetch s).trace = s.trace ++ [.fetch s.pc] := rfl

/-! ### deferredCycle -/

@[simp] theorem deferredCycle_pc (s : State) : (deferredCycle s).pc = deferredPc s := rfl
@[simp] theorem deferredCycle_ppc (s : State) : (deferredCycle s).ppc = s.ppc := rfl
@[simp] theorem deferredCycle_mb (s : State) : (deferredCycle s).mb = s.mb := rfl
@[simp] theorem deferredCycle_idis (s : State) : (deferredCycle s).idis = false := rfl
@[simp] theorem deferredCycle_irep (s : State) : (deferredCycle s).irep = false := rfl
@[simp] theorem deferredCycle_brc (s : State) : (deferredCycle s).brc = s.brc := rfl
@[simp] theorem deferredCycle_cntr (s : State) : (deferredCycle s).cntr = s.cntr := rfl
@[simp] theorem deferredCycle_sr (s : State) : (deferredCycle s).sr = s.sr := rfl
@[simp] theorem deferredCycle_spar (s : State) : (deferredCycle s).spar = s.spar := rfl
@[simp] theorem deferredCycle_bar (s : State) : (deferredCycle s).bar = s.bar := rfl
@[simp] theorem deferredCycle_crc (s : State) : (deferredCycle s).crc = s.crc := rfl
@[simp] theorem deferredCycle_flag (s : State) : (deferredCycle s).flag = s.flag := rfl
@[simp] theorem deferredCycle_sp (s : State) : (deferredCycle s).sp = s.sp := rfl
@[simp] theorem deferredCycle_rom (s : State) : (deferredCycle s).rom = s.rom := rfl
@[simp] theorem deferredCycle_trace (s : State) : (deferredCycle s).trace = s.trace := rfl

/-! ### placeAtFetch -/

@[simp] theorem placeAtFetch_pc (b0 b1 : Byte) (s : State) : (placeAtFetch b0 b1 s).pc = s.pc := rfl
@[simp] theorem placeAtFetch_ppc (b0 b1 : Byte) (s : State) : (placeAtFetch b0 b1 s).ppc = s.ppc := rfl
@[simp] theorem placeAtFetch_mb (b0 b1 : Byte) (s : State) : (placeAtFetch b0 b1 s).mb = s.mb := rfl
@[simp] theorem placeAtFetch_idis (b0 b1 : Byte) (s : State) : (placeAtFetch b0 b1 s).idis = false := rfl
@[simp] theorem placeAtFetch_irep (b0 b1 : Byte) (s : State) : (placeAtFetch b0 b1 s).irep = false := rfl
@[simp] theorem placeAtFetch_brc (b0 b1 : Byte) (s : State) : (placeAtFetch b0 b1 s).brc = s.brc := rfl
@[simp] theorem placeAtFetch_cntr (b0 b1 : Byte) (s : State) : (placeAtFetch b0 b1 s).cntr = s.cntr := rfl
@[simp] theorem placeAtFetch_sr (b0 b1 : Byte) (s : State) : (placeAtFetch b0 b1 s).sr = s.sr := rfl
@[simp] theorem placeAtFetch_spar (b0 b1 : Byte) (s : State) : (placeAtFetch b0 b1 s).spar = s.spar := rfl
@[simp] theorem placeAtFetch_bar (b0 b1 : Byte) (s : State) : (placeAtFetch b0 b1 s).bar = s.bar := rfl
@[simp] theorem placeAtFetch_crc (b0 b1 : Byte) (s : State) : (placeAtFetch b0 b1 s).crc = s.crc := rfl
@[simp] theorem placeAtFetch_flag (b0 b1 : Byte) (s : State) : (placeAtFetch b0 b1 s).flag = s.flag := rfl
@[simp] theorem placeAtFetch_sp (b0 b1 : Byte) (s : State) : (placeAtFetch b0 b1 s).sp = s.sp := rfl
@[simp] theorem placeAtFetch_rom (b0 b1 : Byte) (s : State) : (placeAtFetch b0 b1 s).rom = Memory.write (Memory.write s.rom s.pc.toNat b0) (slotAddress s.pc).toNat b1 := rfl
@[simp] theorem placeAtFetch_trace (b0 b1 : Byte) (s : State) : (placeAtFetch b0 b1 s).trace = s.trace := rfl

/-! ### condEvent -/

@[simp] theorem condEvent_pc (c : CondCode) (s : State) : (condEvent c s).pc = s.pc := by cases c <;> rfl
@[simp] theorem condEvent_ppc (c : CondCode) (s : State) : (condEvent c s).ppc = s.ppc := by cases c <;> rfl
@[simp] theorem condEvent_mb (c : CondCode) (s : State) : (condEvent c s).mb = s.mb := by cases c <;> rfl
@[simp] theorem condEvent_idis (c : CondCode) (s : State) : (condEvent c s).idis = s.idis := by cases c <;> rfl
@[simp] theorem condEvent_irep (c : CondCode) (s : State) : (condEvent c s).irep = s.irep := by cases c <;> rfl
@[simp] theorem condEvent_brc (c : CondCode) (s : State) : (condEvent c s).brc = s.brc := by cases c <;> rfl
@[simp] theorem condEvent_cntr (c : CondCode) (s : State) : (condEvent c s).cntr = s.cntr := by cases c <;> rfl
@[simp] theorem condEvent_sr (c : CondCode) (s : State) : (condEvent c s).sr = s.sr := by cases c <;> rfl
@[simp] theorem condEvent_spar (c : CondCode) (s : State) : (condEvent c s).spar = s.spar := by cases c <;> rfl
@[simp] theorem condEvent_bar (c : CondCode) (s : State) : (condEvent c s).bar = s.bar := by cases c <;> rfl
@[simp] theorem condEvent_crc (c : CondCode) (s : State) : (condEvent c s).crc = s.crc := by cases c <;> rfl
@[simp] theorem condEvent_flag (c : CondCode) (s : State) : (condEvent c s).flag = s.flag := by cases c <;> rfl
@[simp] theorem condEvent_sp (c : CondCode) (s : State) : (condEvent c s).sp = s.sp := by cases c <;> rfl
@[simp] theorem condEvent_rom (c : CondCode) (s : State) : (condEvent c s).rom = s.rom := by cases c <;> rfl

/-! ### storeBranchTaken -/

@[simp] theorem storeBranchTaken_pc (c : CondCode) (pol : Bool) (s : State) : (storeBranchTaken c pol s).pc = s.pc := condEvent_pc c s
@[simp] theorem storeBranchTaken_ppc (c : CondCode) (pol : Bool) (s : State) : (storeBranchTaken c pol s).ppc = s.ppc := condEvent_ppc c s
@[simp] theorem storeBranchTaken_mb (c : CondCode) (pol : Bool) (s : State) : (storeBranchTaken c pol s).mb = s.mb := condEvent_mb c s
@[simp] theorem storeBranchTaken_idis (c : CondCode) (pol : Bool) (s : State) : (storeBranchTaken c pol s).idis = s.idis := condEvent_idis c s
@[simp] theorem storeBranchTaken_irep (c : CondCode) (pol : Bool) (s : State) : (storeBranchTaken c pol s).irep = s.irep := condEvent_irep c s
@[simp] theorem storeBranchTaken_brc (c : CondCode) (pol : Bool) (s : State) : (storeBranchTaken c pol s).brc = branchTaken c pol s := rfl
@[simp] theorem storeBranchTaken_cntr (c : CondCode) (pol : Bool) (s : State) : (storeBranchTaken c pol s).cntr = s.cntr := condEvent_cntr c s
@[simp] theorem storeBranchTaken_sr (c : CondCode) (pol : Bool) (s : State) : (storeBranchTaken c pol s).sr = s.sr := condEvent_sr c s
@[simp] theorem storeBranchTaken_spar (c : CondCode) (pol : Bool) (s : State) : (storeBranchTaken c pol s).spar = s.spar := condEvent_spar c s
@[simp] theorem storeBranchTaken_bar (c : CondCode) (pol : Bool) (s : State) : (storeBranchTaken c pol s).bar = s.bar := condEvent_bar c s
@[simp] theorem storeBranchTaken_crc (c : CondCode) (pol : Bool) (s : State) : (storeBranchTaken c pol s).crc = s.crc := condEvent_crc c s
@[simp] theorem storeBranchTaken_flag (c : CondCode) (pol : Bool) (s : State) : (storeBranchTaken c pol s).flag = s.flag := condEvent_flag c s
@[simp] theorem storeBranchTaken_sp (c : CondCode) (pol : Bool) (s : State) : (storeBranchTaken c pol s).sp = s.sp := condEvent_sp c s
@[simp] theorem storeBranchTaken_rom (c : CondCode) (pol : Bool) (s : State) : (storeBranchTaken c pol s).rom = s.rom := condEvent_rom c s
@[simp] theorem storeBranchTaken_trace (c : CondCode) (pol : Bool) (s : State) : (storeBranchTaken c pol s).trace = (condEvent c s).trace := rfl

end Sys2Proof.Machine
end

