-- ==== Sys2Proof/Laws/Operands.lean ====
section
/-!
SUPPORT. Laws/Operands.lean: what the operand forms, the evaluator and the two kinds of cycle see of a state, for citing
instead of unfolding them.
-/

namespace Sys2Proof.Machine

/-- A full mask on a 12-bit value changes nothing. -/
theorem and_full_addr (x : Addr) : x &&& 0x0FFF = x := by
  have h : (0x0FFF : Addr) = BitVec.allOnes 12 := rfl
  rw [h, BitVec.and_allOnes]

/-- A full mask on a byte changes nothing. -/
theorem and_full_byte (x : Byte) : x &&& 0xFF = x := by
  have h : (0xFF : Byte) = BitVec.allOnes 8 := rfl
  rw [h, BitVec.and_allOnes]

/-- With `FETCH_KEEP = 0x000` the slot address is the increment under the 11-bit mask. -/
theorem slotAddress_eq (a : Addr) : slotAddress a = (a + 1) &&& 0x07FF := by
  simp [slotAddress, Config.fetchKeep]

/-- A page beside a byte, as a shift and an or. -/
theorem nibble_append_byte (p : Nibble) (l : Byte) : p ++ l = ((p.setWidth 12) <<< 8) ||| l.setWidth 12 := by
  ext i hi
  rw [BitVec.getElem_append]
  simp only [BitVec.getElem_or, BitVec.getElem_shiftLeft, BitVec.getElem_setWidth]
  by_cases h : i < 8
  · simp [h]
  · have hl : l.getLsbD i = false := BitVec.getLsbD_of_ge _ _ (by omega)
    have hs : i - 8 < 12 := by omega
    simp [h, hl, ← BitVec.getLsbD_eq_getElem]

/-- The jump target is the field of the word beside the low byte. -/
theorem jumpTarget_eq_append (mb low : Byte) : jumpTarget mb low = wordField mb ++ low := by
  rw [nibble_append_byte, jumpTarget]
  congr 1
  revert mb
  decide

/-- The multiplexer sees PC, SPAR and the two memories. -/
theorem muxOf_congr {s t : State} (hpc : t.pc = s.pc) (hspar : t.spar = s.spar) (hsp : t.sp = s.sp) (hrom : t.rom = s.rom)
    (src : Src) : muxOf src t = muxOf src s := by
  cases src
  · simp [muxOf, hpc, romRead_congr hrom]
  · simp [muxOf, hspar, spRead_congr hsp]

/-- The evaluator sees SR, CNTR, CRC and FLAG. -/
theorem condValue_congr {s t : State} (hsr : t.sr = s.sr) (hcntr : t.cntr = s.cntr) (hcrc : t.crc = s.crc)
    (hflag : t.flag = s.flag) (c : CondCode) : condValue c t = condValue c s := by
  cases c <;> simp [condValue, terminalCount, hsr, hcntr, hcrc, hflag]

/-- The deferring forms of the syntax are the deferring words (30_encoding.md R48). -/
theorem hasSlot_decodeWord (b : Byte) : (decodeWord b).hasSlot = deferringWord b := by
  revert b
  decide

/-- A condition code that a field selects goes back to that field. -/
theorem code_condOfField (f : Nibble) : (condOfField f).code = f := by
  revert f
  decide

/-- A well-formed condition code is the one its number selects. -/
theorem condOfField_code {c : CondCode} (h : c.wellFormed = true) : condOfField c.code = c := by
  cases c with
  | unimplemented k => revert h; revert k; decide
  | sr7 => rfl
  | tc => rfl
  | crc0 => rfl
  | flg => rfl

/-- A cycle from an instruction boundary is the decode step of the fetched word after the fetch. -/
theorem cycle_atBoundary {s : State} (hi : s.idis = false) (hr : s.irep = false) :
    cycle s = exec (decodeWord (romRead s.pc s)) (fetch s) := by
  simp [cycle, decodePoint, hi, hr]

/-- A cycle with IDIS set is the deferred cycle. -/
theorem cycle_deferred {s : State} (hi : s.idis = true) : cycle s = .next (deferredCycle s) := by
  simp [cycle, hi]

end Sys2Proof.Machine
end

