-- ==== Sys2Proof/Laws/PerInstr.lean ====
section
/-!
SUPPORT. Laws/PerInstr.lean: per instruction, the word the encoder writes lies in the instruction's own row of the opcode map
(30_encoding.md R50) and has its ignored bits clear (30_encoding.md R52).
-/

namespace Sys2Proof.Laws

/-- The encoded word is in the instruction's row and clear in its ignored bits. -/
def EncodesInRow.Statement (i : Instr) : Prop :=
  i.wellFormed = true → i.row.covers (encodeWord i) = true ∧ encodeWord i &&& ignoredBits (encodeWord i) = 0

theorem EncodesInRow.unimpLow (low : BitVec 5) : EncodesInRow.Statement (.unimpLow low) := by
  intro _; revert low; decide

theorem EncodesInRow.unimpMid (low : BitVec 2) : EncodesInRow.Statement (.unimpMid low) := by
  intro _; revert low; decide

theorem EncodesInRow.barc : EncodesInRow.Statement .barc := by
  intro _; decide

theorem EncodesInRow.barz : EncodesInRow.Statement .barz := by
  intro _; decide

theorem EncodesInRow.bari : EncodesInRow.Statement .bari := by
  intro _; decide

theorem EncodesInRow.unimpHigh (low : BitVec 3) : EncodesInRow.Statement (.unimpHigh low) := by
  intro _; revert low; decide

theorem EncodesInRow.flgh : EncodesInRow.Statement .flgh := by
  intro _; decide

theorem EncodesInRow.flgc : EncodesInRow.Statement .flgc := by
  intro _; decide

theorem EncodesInRow.flgs : EncodesInRow.Statement .flgs := by
  intro _; decide

theorem EncodesInRow.flgt : EncodesInRow.Statement .flgt := by
  intro _; decide

theorem EncodesInRow.stsr : EncodesInRow.Statement .stsr := by
  intro _; decide

theorem EncodesInRow.ldci : EncodesInRow.Statement .ldci := by
  intro _; decide

theorem EncodesInRow.ldcs : EncodesInRow.Statement .ldcs := by
  intro _; decide

theorem EncodesInRow.inck : EncodesInRow.Statement .inck := by
  intro _; decide

theorem EncodesInRow.inc : EncodesInRow.Statement .inc := by
  intro _; decide

theorem EncodesInRow.shl0 : EncodesInRow.Statement .shl0 := by
  intro _; decide

theorem EncodesInRow.ldsr : EncodesInRow.Statement .ldsr := by
  intro _; decide

theorem EncodesInRow.shl1 : EncodesInRow.Statement .shl1 := by
  intro _; decide

theorem EncodesInRow.shld : EncodesInRow.Statement .shld := by
  intro _; decide

theorem EncodesInRow.br (c : CondCode) (pol : Bool) (src : Src) : EncodesInRow.Statement (.br c pol src) := by
  intro _; cases pol <;> cases src <;> (simp only [encodeWord, Instr.row]; generalize c.code = n; revert n; decide)

theorem EncodesInRow.lspa (n : Nibble) : EncodesInRow.Statement (.lspa n) := by
  intro _; revert n; decide

theorem EncodesInRow.jmp (page : Nibble) (src : Src) : EncodesInRow.Statement (.jmp page src) := by
  intro _; cases src <;> (revert page; decide)

theorem EncodesInRow.wb (c : CondCode) (pol : Bool) (src : Src) : EncodesInRow.Statement (.wb c pol src) := by
  intro _; cases pol <;> cases src <;> (simp only [encodeWord, Instr.row]; generalize c.code = n; revert n; decide)

end Sys2Proof.Laws
end

