-- ==== Sys2Proof/Tests/Slice0.lean ====
section
/-!
SUPPORT. Tests/Slice0.lean: the model's own tests. Expected results come from spec/95_test_vectors.md (the vector is named in
each docstring) and from the examples of the rules. Then a witness for the hypotheses of every statement that has any.
-/

namespace Sys2Proof.Tests

open Sys2Proof Sys2Proof.Machine

/-- A small state: reset registers, every scratchpad cell 0x11, the given bytes of the store. -/
def small (rom : Memory) : State := { State.reset with sp := Vector.replicate 16 0x11, rom := rom }

/-- The state one step leads to, if it leads to one. -/
def next (s : State) : Option State :=
  match step s with
  | .next t => some t
  | .fault _ => none
  | .refused _ => none

/-! ## Well-formedness: an ill-formed term for each check -/

theorem test_wf_refuses_named_code : (Instr.br (.unimplemented 4) true .rom).wellFormed = false := by decide
theorem test_wf_accepts_unnamed_code : (Instr.wb (.unimplemented 12) false .sp).wellFormed = true := by decide
theorem test_wf_refuses_missing_slot : (Placed.mk .ldci none).wellFormed = false := by decide
theorem test_wf_refuses_spare_slot : (Placed.mk .ldcs (some 0)).wellFormed = false := by decide

/-! ## Decoding: one word per constructor, written out from 30_encoding.md R47, R50 -/

theorem test_decode_unimp :
    decodeWord 0b00011111 = .unimpLow 31 ∧ decodeWord 0b00100011 = .unimpMid 3 ∧ decodeWord 0b00101100 = .unimpHigh 4 := by
  decide
theorem test_decode_bar :
    decodeWord 0b00100100 = .barc ∧ decodeWord 0b00100101 = .barz ∧ decodeWord 0b00100111 = .bari := by decide
theorem test_decode_flag :
    decodeWord 0b00110000 = .flgh ∧ decodeWord 0b00110001 = .flgc ∧ decodeWord 0b00110010 = .flgs ∧
      decodeWord 0b00110011 = .flgt := by decide
theorem test_decode_store : decodeWord 0b00110100 = .stsr ∧ decodeWord 0b00110111 = .stsr := by decide
theorem test_decode_counter :
    decodeWord 0b00111000 = .ldci ∧ decodeWord 0b00111001 = .ldcs ∧ decodeWord 0b00111010 = .inck ∧
      decodeWord 0b00111011 = .inc := by decide
theorem test_decode_shift :
    decodeWord 0b00111100 = .shl0 ∧ decodeWord 0b00111101 = .ldsr ∧ decodeWord 0b00111110 = .shl1 ∧
      decodeWord 0b00111111 = .shld := by decide
theorem test_decode_br :
    decodeWord 0b01010000 = .br .sr7 false .rom ∧ decodeWord 0b01010110 = .br .tc true .rom ∧
      decodeWord 0b01011000 = .br .crc0 false .rom ∧ decodeWord 0b01111111 = .br .flg true .sp ∧
      decodeWord 0b01110010 = .br (.unimplemented 12) true .rom := by decide
theorem test_decode_wb :
    decodeWord 0b11010110 = .wb .tc true .rom ∧ decodeWord 0b11000001 = .wb (.unimplemented 0) false .sp := by decide
theorem test_decode_class_ten :
    decodeWord 0b10010010 = .jmp 4 .rom ∧ decodeWord 0b10010111 = .jmp 5 .sp ∧ decodeWord 0b10001100 = .lspa 3 ∧
      decodeWord 0b10000001 = .lspa 0 := by decide

/-- 30_encoding.md R57: `LDCI #0xA5`, then one byte more; a list that ends before the slot byte is refused by name. -/
theorem test_decode_bytes :
    decodeBytes [0x38, 0xA5, 0x3D] = .ok (⟨.ldci, some 0xA5⟩, [0x3D]) ∧
      decodeBytes [0x38] = .error (.noSlotByte .ldci) ∧ decodeBytes [] = .error .noControlWord := by
  refine ⟨rfl, rfl, rfl⟩

/-- spec/opcode_table.json's numbering: the first byte is bits 7:0. -/
theorem test_decode_table_word : decodeTableWord 16 0xA538 = some .ldci ∧ decodeTableWord 8 0xFF82 = some (.jmp 0 .rom) := by
  decide

/-! ## One step -/

/-- Vector G18. -/
theorem test_unimp_changes_nothing_and_logs :
    (next { small [(7, 0x23)] with pc := 7, cntr := 0x11, sr := 0x22, spar := 3, bar := 0x444, flag := true }).map
      (fun t => ((t.pc, t.ppc, t.cntr, t.sr), (t.spar, t.bar, t.flag, t.idis))) =
      some ((8, 7, 0x11, 0x22), (3, 0x444, true, false)) := by decide
/-- Vector G19: the events of an `UNIMP` cycle, in their order. -/
theorem test_unimp_events :
    (next { small [(7, 0x23)] with pc := 7 }).map (fun t => t.trace) =
      some [.fetch 7, .unimplementedInstruction 7 0x23] := by decide
/-- Vector G1. -/
theorem test_barc : (next { small [(0, 0x24)] with bar := 0x123 }).map (fun t => (t.bar, t.pc)) = some (0xC00, 1) := by decide
/-- Vector G2. -/
theorem test_barz : (next { small [(0, 0x25)] with bar := 0xC05 }).map (fun t => t.bar) = some 0 := by decide
/-- Vector G4. -/
theorem test_bari_wraps : (next { small [(0, 0x27)] with bar := 0xFFF }).map (fun t => t.bar) = some 0 := by decide
/-- Vector G5. -/
theorem test_flgh : (next { small [(0, 0x30)] with flag := true }).map (fun t => (t.flag, t.trace)) =
    some (true, [.fetch 0]) := by decide
/-- Vector G6. -/
theorem test_flgc : (next { small [(0, 0x31)] with flag := true }).map (fun t => t.flag) = some false := by decide
/-- Vector G7. -/
theorem test_flgs : (next { small [(0, 0x32)] with flag := true }).map (fun t => t.flag) = some true := by decide
/-- Vector G8: the case where the source's prose and its equation differ (90_conflicts.md C2). -/
theorem test_flgt_toggles_down : (next { small [(0, 0x33)] with flag := true }).map (fun t => t.flag) = some false := by decide
/-- Vector G9. -/
theorem test_stsr :
    (next { small [(0, 0x37)] with spar := 15, sr := 0x5A }).map (fun t => (spRead 15 t, spRead 14 t, spRead 0 t)) =
      some (0x5A, 0x11, 0x11) := by decide
/-- Vector G10, first cycle. -/
theorem test_ldci :
    (next { small [(0x20, 0x38), (0x21, 0xFF)] with pc := 0x20, cntr := 0x12 }).map (fun t => (t.cntr, t.pc, t.idis)) =
      some (0xFF, 0x21, true) := by decide
/-- Vector F3: the slot byte of a word at 0x7FF is at 0. -/
theorem test_ldci_slot_wraps :
    (next { small [(0, 0x22), (0x7FF, 0x38)] with pc := 0x7FF }).map (fun t => (t.cntr, t.pc)) = some (0x22, 0) := by decide
/-- Vector G11. -/
theorem test_ldcs :
    (next { small [(0, 0x39)] with cntr := 0x12, spar := 4 }).map (fun t => (t.cntr, t.idis)) = some (0x11, false) := by decide
/-- Vector G13. -/
theorem test_inck_wraps :
    (next { small [(0x10, 0x3A)] with pc := 0x10, cntr := 0xFF }).map (fun t => (t.cntr, t.idis)) = some (0, true) := by decide
/-- Vector G16. -/
theorem test_inc : (next { small [(0, 0x3B)] with cntr := 0xFE }).map (fun t => (t.cntr, t.idis)) = some (0xFF, false) := by
  decide
/-- Vector G23. -/
theorem test_shl0 : (next { small [(0, 0x3C)] with sr := 0xA5 }).map (fun t => t.sr) = some 0x4A := by decide
/-- Vector G24. -/
theorem test_ldsr : (next { small [(0, 0x3D)] with sr := 0xA5, cntr := 0x3C }).map (fun t => (t.sr, t.cntr)) =
    some (0x3C, 0x3C) := by decide
/-- Vector G25. -/
theorem test_shl1 : (next { small [(0, 0x3E)] with sr := 0xA5 }).map (fun t => t.sr) = some 0x4B := by decide
/-- Vector G26. -/
theorem test_shld : (next { small [(0, 0x3F)] with sr := 0xA5 }).map (fun t => t.sr) = some 0x4A := by decide
/-- Vector B9, first cycle. -/
theorem test_br_condition :
    (next { small [(0x10, 0x52), (0x11, 0x99)] with pc := 0x10, sr := 0x80 }).map (fun t => (t.brc, t.idis, t.pc)) =
      some (true, true, 0x11) := by decide
/-- Vector B2, second cycle: the page of slot address + 1. -/
theorem test_br_taken_page :
    (next { small [(0xFE, 0x7C), (0xFF, 0x40)] with pc := 0xFF, mb := 0x7C, idis := true, brc := true }).map
      (fun t => (t.pc, t.idis)) = some (0x140, false) := by decide
/-- Vector B16: the event of an unimplemented condition. -/
theorem test_unimplemented_condition :
    (next { small [(0x10, 0x72)] with pc := 0x10 }).map (fun t => (t.brc, t.trace)) =
      some (true, [.fetch 0x10, .unhandledBranchCondition 0x10 0x30]) := by decide
/-- Vector W1, first cycle. -/
theorem test_wb_repeats :
    (next { small [(0x10, 0xD6)] with pc := 0x10, cntr := 0xFD }).map (fun t => (t.irep, t.idis, t.brc, t.cntr, t.pc)) =
      some (true, false, false, 0xFE, 0x11) := by decide
/-- Vector W1, third cycle: a repeat cycle at terminal count, without a fetch. -/
theorem test_wb_repeat_cycle_ends :
    (next { small [(0x10, 0xD6)] with pc := 0x11, ppc := 0x10, mb := 0xD6, irep := true, cntr := 0xFF }).map
      (fun t => ((t.irep, t.idis, t.brc), (t.cntr, t.pc, t.trace))) = some ((false, true, true), (0, 0x11, [])) := by decide
/-- Vector J1, second cycle. -/
theorem test_jmp :
    (next { small [(0, 0x92), (1, 0x20)] with pc := 1, mb := 0x92, idis := true }).map (fun t => (t.pc, t.idis)) =
      some (0x420, false) := by decide
/-- Vector J3, second cycle: the low byte from the scratchpad. -/
theorem test_jmp_scratchpad :
    (next { small [(0x21, 0xEE)] with pc := 0x21, mb := 0x97, idis := true, spar := 9 }).map (fun t => t.pc) =
      some 0x511 := by decide
/-- Vector J6: bit 0 ignored. -/
theorem test_lspa : (next { small [(0, 0xBD)] with spar := 7 }).map (fun t => t.spar) = some 15 := by decide
/-- Vector F1: the 11-bit wrap of the fetch. -/
theorem test_fetch_wraps : (next { small [(0x7FF, 0x30)] with pc := 0x7FF }).map (fun t => (t.pc, t.ppc, t.mb)) =
    some (0, 0x7FF, 0x30) := by decide
/-- Vector F2, second cycle: the 12-bit fall-through. -/
theorem test_fall_through_into_upper_bank :
    (next { small [] with pc := 0x7FF, mb := 0x38, idis := true }).map (fun t => t.pc) = some 0x800 := by decide
/-- Vector F4, third cycle: the fetch clears bit 11 (90_conflicts.md C1). -/
theorem test_fetch_leaves_upper_bank :
    (next { small [(0x900, 0x3B)] with pc := 0x900 }).map (fun t => (t.pc, t.cntr)) = some (0x101, 1) := by decide
/-- Vector Z1: reset keeps the scratchpad. -/
theorem test_reset_keeps_scratchpad :
    (fun t : State => (t.pc, t.cntr, t.flag, spRead 3 t))
      (resetCore { small [] with pc := 5, cntr := 7, flag := true }) = (0, 0, false, 0x11) := by decide
/-- The reset state of the model, its scratchpad free, runs a placed `INC`. -/
theorem test_placed_word_runs_after_reset : (next (State.reset.withFetchWord 8 0x3B)).map (fun t => (t.cntr, t.pc)) =
    some (1, 1) := by decide
/-- A placed `LDCI` finds its slot byte. -/
theorem test_placed_slot_byte : (next (State.reset.withFetchWord 16 0xA538)).map (fun t => t.cntr) = some 0xA5 := by decide
/-- A cell where nothing was placed reads as the free value (92_eei_decisions.md D2), a placed one as its byte. -/
theorem test_unplaced_cell_is_free : romRead 5 State.reset = Config.romInit 5 ∧ romRead 5 (small [(5, 0)]) = 0 := ⟨rfl, rfl⟩
/-- A write at a placed address replaces its byte, and one between two entries keeps their order. -/
theorem test_store_form :
    Memory.write [(3, 0x38)] 3 0 = [(3, 0)] ∧ Memory.write [(1, 7), (5, 9)] 3 2 = [(1, 7), (3, 2), (5, 9)] ∧
      Memory.wf [(1, 7), (3, 0)] = true ∧ Memory.wf [(3, 2), (1, 7)] = false ∧ Memory.wf [(1, 7), (1, 7)] = false ∧
      Memory.wf [(4096, 1)] = false := by decide

/-! ## Witnesses for the hypotheses of the statements -/

theorem witness_DecodeOfEncodeIsTheInstruction : (Instr.wb (.unimplemented 15) true .sp).wellFormed = false ∧
    (Instr.br (.unimplemented 14) true .sp).wellFormed = true := by decide
theorem witness_DecodeOfEncodedBytes : (Placed.mk (.jmp 15 .rom) (some 0xFF)).wellFormed = true := by decide
theorem witness_ByteListsRefusedByName :
    decodeBytes [] = .error .noControlWord ∧ deferringWord 0xFF = true ∧
      decodeBytes [0xFF] = .error (.noSlotByte (decodeWord 0xFF)) := ⟨rfl, by decide, rfl⟩
theorem witness_StepRunsTheDecodedInstruction :
    ({ small [] with idis := true } : State).idis = true ∧ ({ small [] with irep := true } : State).irep = true ∧
      (small []).idis = false ∧ (small []).irep = false := ⟨rfl, rfl, rfl, rfl⟩
/-- A deferred cycle of each of the three cases: jump, taken branch, fall-through. -/
theorem witness_DeferredCycleUpdatesPcOnly :
    (next { small [(1, 0x20)] with pc := 1, mb := 0xBE, idis := true }).map (fun t => t.pc) = some 0xF20 ∧
      (next { small [(1, 0x20)] with pc := 1, mb := 0x40, idis := true, brc := true }).map (fun t => t.pc) = some 0x020 ∧
      (next { small [(1, 0x20)] with pc := 0xFFF, mb := 0x40, idis := true }).map (fun t => t.pc) = some 0 := by decide
/-- For DecodeStepNeverWritesPcPpcMb and the three frames: an instruction that stores and one that does not. -/
theorem witness_frames :
    (∃ t, exec .stsr { small [] with spar := 15, sr := 0x77 } = .next t) ∧
      (∃ t, exec (.wb .tc true .rom) { small [] with cntr := 0xFF } = .next t) := ⟨⟨_, rfl⟩, ⟨_, rfl⟩⟩
/-- For PpcAndMbWrittenByTheFetchOnly, StepWritesNoMemoryButTheStoredCell, EveryStepKeepsTheInvariant and
NoDiagnosticWithoutAFallback: a step from a state with the invariant and no diagnostic, that changes a cell. -/
theorem witness_steps :
    Inv { small [(0, 0x34)] with sr := 0x77 } ∧ noDiagnostic { small [(0, 0x34)] with sr := 0x77 } ∧
      (next { small [(0, 0x34)] with sr := 0x77 }).map (fun t => (spRead 0 t, t.idis)) = some (0x77, false) := by
  refine ⟨⟨by decide, by decide, by decide, rfl, by decide⟩, ?_, by decide⟩
  intro e h
  cases h
/-- For EveryStepKeepsTheInvariant: a state that a deferring form leaves, and one that a repeating `WB` leaves. -/
theorem witness_Inv_clauses :
    Inv { small [(1, 0xFF)] with pc := 1, mb := 0x3A, idis := true } ∧
      Inv { small [(0xFFF, 0xFF)] with pc := 1, mb := 0xC0, irep := true } :=
  ⟨⟨by decide, by decide, by decide, rfl, by decide⟩, ⟨by decide, by decide, by decide, rfl, by decide⟩⟩
theorem witness_PpcAndMb_repeat :
    (next { small [] with mb := 0xC0, irep := true, ppc := 5 }).map (fun t => (t.ppc, t.mb)) = some (5, 0xC0) := by decide
theorem witness_LdciResult :
    atBoundary (small [(0, 0x38), (1, 0xA5)]) ∧ romRead 0 (small [(0, 0x38), (1, 0xA5)]) = 0x38 := ⟨⟨rfl, rfl⟩, rfl⟩
theorem witness_InckResult : atBoundary (small [(0, 0x3A)]) ∧ romRead 0 (small [(0, 0x3A)]) = 0x3A := ⟨⟨rfl, rfl⟩, rfl⟩
theorem witness_UnimpResults :
    (0x2F : Byte) &&& 0xC0 = 0 ∧ (0x2F : Byte) &&& 0x3C ≠ 0x24 ∧ (0x2F : Byte) &&& 0x3C ≠ 0x30 ∧
      (0x2F : Byte) &&& 0x3C ≠ 0x34 ∧ (0x2F : Byte) &&& 0x3C ≠ 0x38 ∧ (0x2F : Byte) &&& 0x3C ≠ 0x3C := by decide
/-- `STSR` then `LDCS` in a state that differs in another register only. -/
theorem witness_ScratchpadRoundTrip :
    exec .stsr { small [] with sr := 0x77 } = .next (spWrite 0 0x77 { small [] with sr := 0x77 }) ∧
      ({ spWrite 0 0x77 (small []) with cntr := 3 } : State).spar = 0 := ⟨rfl, rfl⟩
theorem witness_BrResult :
    atBoundary (small [(0, 0x7D)]) ∧ decodeWord (romRead 0 (small [(0, 0x7D)])) = .br .flg false .sp :=
  ⟨⟨rfl, rfl⟩, by decide⟩
/-- A `WB` step that repeats, and one that defers at terminal count. -/
theorem witness_WbDecodeStep :
    (next { small [(0, 0xFE)] with cntr := 0xFE }).map (fun t => (t.irep, t.idis)) = some (true, false) ∧
      (next { small [(0, 0xFE)] with cntr := 0xFF }).map (fun t => (t.irep, t.idis)) = some (false, true) ∧
      (0xFE : Byte).getLsbD 6 = true := by decide
theorem witness_TakenBranchTarget :
    (next { small [(0xFFF, 0x40)] with pc := 0xFFF, mb := 0xFC, idis := true, brc := true }).map (fun t => t.pc) = some 0x040 ∧
      (0x7FD : Addr) ≤ 0x7FD := by decide
/-- For WbRunsToItsEnd and WbWithoutMatchIsADelay: a `WB FLG,1` with FLAG clear. -/
theorem witness_Wb :
    (small [(0, 0xFE)]).idis = false ∧ (decodePoint (small [(0, 0xFE)])).mb &&& 0xC0 = 0xC0 ∧
      (decodePoint (small [(0, 0xFE)])).mb &&& 0x3C ≠ 0x14 ∧
      bitCond ((decodePoint (small [(0, 0xFE)])).mb &&& 0x3C) (decodePoint (small [(0, 0xFE)])) ≠
        (decodePoint (small [(0, 0xFE)])).mb.getLsbD 1 := by decide
theorem witness_WbOnTerminalCount :
    (decodePoint (small [(0, 0xD6)])).mb &&& 0xFC = 0xD4 ∧ (0xD6 : Byte).getLsbD 1 = true ∧
      (decodePoint { small [(0, 0xD4)] with cntr := 0xFF }).mb &&& 0xFC = 0xD4 ∧ (0xD4 : Byte).getLsbD 1 = false ∧
      (decodePoint { small [(0, 0xD4)] with cntr := 0xFF }).cntr = 255 ∧ (decodePoint (small [(0, 0xD4)])).cntr ≠ 255 := by
  decide
theorem witness_JmpResult :
    atBoundary (small [(0, 0xBF)]) ∧ decodeWord (romRead 0 (small [(0, 0xBF)])) = .jmp 15 .sp := ⟨⟨rfl, rfl⟩, by decide⟩
theorem witness_StraightLineFetchWrapsAt2048 :
    atBoundary { small [(0x101, 0x30), (0x102, 0x3B), (0x900, 0x3C)] with pc := 0x900 } ∧
      ∀ k, k < 3 → deferringWord (Memory.read [(0x101, 0x30), (0x102, 0x3B), (0x900, 0x3C)] (if k = 0 then 0x900 else (0x900 + k) % 2048)) = false :=
  ⟨⟨rfl, rfl⟩, by decide⟩
/-- The third clause of SlotByteIsSteppedOver: a `BR SR7,1` with SR 0. -/
theorem witness_SlotByteIsSteppedOver :
    atBoundary (small [(0, 0x52)]) ∧ romRead 0 (small [(0, 0x52)]) &&& 0xC0 = 0x40 ∧
      bitCond (romRead 0 (small [(0, 0x52)]) &&& 0x3C) (small [(0, 0x52)]) ≠ (romRead 0 (small [(0, 0x52)])).getLsbD 1 :=
  ⟨⟨rfl, rfl⟩, by decide, by decide⟩
theorem witness_CycleCounts :
    atBoundary (small [(0, 0x82)]) ∧ deferringWord (romRead 0 (small [(0, 0x82)])) = true ∧
      romRead 0 (small [(0, 0x82)]) &&& 0xC0 ≠ 0xC0 ∧ deferringWord (romRead 0 (small [(0, 0x81)])) = false :=
  ⟨⟨rfl, rfl⟩, by decide, by decide, by decide⟩
theorem witness_BrcIsFreshWhenRead :
    (next (small [(0, 0x7E)])).map (fun t => (t.idis, t.mb.getLsbD 6, t.brc)) = some (true, true, false) := by decide
theorem witness_CanonicalStoreIsDeterminedByItsBytes : Memory.wf [(0, 1), (4095, 0xFF)] = true ∧
    (Memory.placed [(0, 1), (4095, 0xFF)] 4095).isSome = true ∧ Memory.read [(0, 1), (4095, 0xFF)] 4095 = 0xFF := by decide
/-- For NoDiagnosticWithoutAFallback: a cycle without a fallback, and one with an `UNIMP`. -/
theorem witness_NoDiagnostic :
    (next (small [(0, 0x30)])).map (fun t => t.trace.all (fun e => !e.isDiagnostic)) = some true ∧
      (next (small [(0, 0x23)])).map (fun t => t.trace.all (fun e => !e.isDiagnostic)) = some false := by decide
/-- Two stores that differ away from PC and the slot address. -/
theorem witness_StepReadsTheStoreAtPcAndSlot :
    Memory.read [(7, 9)] 0 = Memory.read [] 0 ∧ Memory.read [(7, 9)] (slotAddress 0).toNat = Memory.read [] 1 := ⟨rfl, rfl⟩
/-- Two scratchpads that differ away from the cell SPAR names. -/
theorem witness_StepReadsTheScratchpadAtSparOnly :
    spRead 3 { small [] with spar := 3, sp := (Vector.replicate 16 0x11).set 4 0 } = spRead 3 { small [] with spar := 3 } := by
  decide
theorem witness_PlacedWordRunsNext : Memory.wf State.reset.rom = true ∧
    Memory.wf (State.reset.withFetchWord 16 0xFF92).rom = true := by decide

end Sys2Proof.Tests
end

/-!
The decode step seen register by register: what each register becomes, as 10_state.md lists its writers. `exec_eq_next`
ties this view to `exec`; the frames, the invariant and the independence of PPC and BAR follow from it.
-/

namespace Sys2Proof.Machine

/-! ## The view by registers -/

/-- The events of the evaluator, on the condition and PPC (40_cycle_engine.md R66, 60_exceptions.md R113). -/
def condEvents (c : CondCode) (ppc : Addr) : List Event :=
  match c with
  | .unimplemented _ => [.unhandledBranchCondition ppc c.field]
  | _ => []

/-- The events of a decode step, on the instruction, PPC and MB (60_exceptions.md R113, R114). -/
def decodeEvents (i : Instr) (ppc : Addr) (mb : Byte) : List Event :=
  match i with
  | .br c _ _ | .wb c _ _ => condEvents c ppc
  | .unimpLow _ | .unimpMid _ | .unimpHigh _ => [.unimplementedInstruction ppc mb]
  | _ => []

/-- IDIS after the decode step (10_state.md R14). -/
def idisAfter (i : Instr) (s : State) : Bool :=
  match i with
  | .br _ _ _ | .jmp _ _ | .ldci | .inck => true
  | .ldcs | .inc => false
  | .wb c pol _ => terminalCount s || branchTaken c pol s
  | _ => s.idis

/-- IREP after the decode step (10_state.md R15). -/
def irepAfter (i : Instr) (s : State) : Bool :=
  match i with
  | .wb c pol _ => !terminalCount s && !branchTaken c pol s
  | _ => s.irep

/-- BRC after the decode step (10_state.md R16). -/
def brcAfter (i : Instr) (s : State) : Bool :=
  match i with
  | .br c pol _ | .wb c pol _ => branchTaken c pol s
  | _ => s.brc

/-- CNTR after the decode step (10_state.md R17). -/
def cntrAfter (i : Instr) (s : State) : Byte :=
  match i with
  | .ldci => muxOf .rom s
  | .ldcs => muxOf .sp s
  | .inck | .inc | .wb _ _ _ => s.cntr + 1
  | _ => s.cntr

/-- SR after the decode step (10_state.md R18). -/
def srAfter (i : Instr) (s : State) : Byte :=
  match i with
  | .ldsr => s.cntr
  | .shl0 => (shiftIn false s).sr
  | .shl1 => (shiftIn true s).sr
  | .shld => (shiftIn Config.sepData s).sr
  | _ => s.sr

/-- SPAR after the decode step (10_state.md R19). -/
def sparAfter (i : Instr) (s : State) : Nibble :=
  match i with
  | .lspa n => n
  | _ => s.spar

/-- BAR after the decode step (10_state.md R20). -/
def barAfter (i : Instr) (s : State) : Addr :=
  match i with
  | .barc => Config.barBaseA
  | .barz => Config.barBaseB
  | .bari => s.bar + 1
  | _ => s.bar

/-- FLAG after the decode step (10_state.md R22); `FLGH`, which holds it, is no writer. -/
def flagAfter (i : Instr) (s : State) : Bool :=
  match i with
  | .flgc => nextFlag false true s.flag
  | .flgs => nextFlag true false s.flag
  | .flgt => nextFlag true true s.flag
  | _ => s.flag

/-- The scratchpad after the decode step (10_state.md R23). -/
def spAfter (i : Instr) (s : State) : Vector Byte 16 :=
  match i with
  | .stsr => (spWrite s.spar s.sr s).sp
  | _ => s.sp

/-- The state after the decode step of an instruction, register by register; PC, PPC, MB, CRC and the store are kept. -/
def decodeStep (i : Instr) (s : State) : State :=
  { s with
    idis := idisAfter i s, irep := irepAfter i s, brc := brcAfter i s, cntr := cntrAfter i s, sr := srAfter i s
    spar := sparAfter i s, bar := barAfter i s, flag := flagAfter i s, sp := spAfter i s
    trace := s.trace ++ decodeEvents i s.ppc s.mb }

@[simp] theorem decodeStep_pc (i : Instr) (s : State) : (decodeStep i s).pc = s.pc := rfl
@[simp] theorem decodeStep_ppc (i : Instr) (s : State) : (decodeStep i s).ppc = s.ppc := rfl
@[simp] theorem decodeStep_mb (i : Instr) (s : State) : (decodeStep i s).mb = s.mb := rfl
@[simp] theorem decodeStep_idis (i : Instr) (s : State) : (decodeStep i s).idis = idisAfter i s := rfl
@[simp] theorem decodeStep_irep (i : Instr) (s : State) : (decodeStep i s).irep = irepAfter i s := rfl
@[simp] theorem decodeStep_brc (i : Instr) (s : State) : (decodeStep i s).brc = brcAfter i s := rfl
@[simp] theorem decodeStep_crc (i : Instr) (s : State) : (decodeStep i s).crc = s.crc := rfl
@[simp] theorem decodeStep_rom (i : Instr) (s : State) : (decodeStep i s).rom = s.rom := rfl
@[simp] theorem decodeStep_trace (i : Instr) (s : State) : (decodeStep i s).trace = s.trace ++ decodeEvents i s.ppc s.mb :=
  rfl

/-- The evaluator appends its events and changes nothing else. -/
theorem condEvent_eq (c : CondCode) (s : State) : condEvent c s = { s with trace := s.trace ++ condEvents c s.ppc } := by
  cases c with
  | unimplemented code => rfl
  | sr7 | tc | crc0 | flg => simp [condEvent, condEvents]

/-- The stored decision, with the events of the evaluation. -/
theorem storeBranchTaken_eq (c : CondCode) (pol : Bool) (s : State) :
    storeBranchTaken c pol s = { s with brc := branchTaken c pol s, trace := s.trace ++ condEvents c s.ppc } := by
  rw [storeBranchTaken, condEvent_eq]

/-- `FLGH` holds FLAG (43_function.md R93). -/
theorem nextFlag_hold (flag : Bool) : nextFlag false false flag = flag := by
  simp [nextFlag]

/-- Every decode step completes, with the registers of `decodeStep`. -/
theorem exec_eq_next (i : Instr) (s : State) : exec i s = .next (decodeStep i s) := by
  cases i with
  | br c pol src =>
    simp only [exec, execBr, storeBranchTaken_eq]
    rfl
  | wb c pol src =>
    simp only [exec, execWb, storeBranchTaken_eq]
    rfl
  | unimpLow low | unimpMid low | unimpHigh low => rfl
  | flgh =>
    simp only [exec, execFlgh, nextFlag_hold, decodeStep, decodeEvents, List.append_nil]
    rfl
  | _ =>
    simp only [decodeStep, decodeEvents, List.append_nil]
    rfl

/-- What `exec` answers is the state of `decodeStep`. -/
theorem eq_decodeStep_of_exec {i : Instr} {s t : State} (h : exec i s = .next t) : t = decodeStep i s := by
  rw [exec_eq_next] at h
  exact (Host.Outcome.next.inj h).symm

/-! ## The writers of each register -/

theorem writer_of_cntrAfter_ne {i : Instr} {s : State} (h : cntrAfter i s ≠ s.cntr) :
    i = .ldci ∨ i = .ldcs ∨ i = .inck ∨ i = .inc ∨ ∃ c pol src, i = .wb c pol src := by
  revert h
  fun_cases cntrAfter i s <;> simp

theorem writer_of_srAfter_ne {i : Instr} {s : State} (h : srAfter i s ≠ s.sr) :
    i = .ldsr ∨ i = .shl0 ∨ i = .shl1 ∨ i = .shld := by
  revert h
  fun_cases srAfter i s <;> simp

theorem writer_of_sparAfter_ne {i : Instr} {s : State} (h : sparAfter i s ≠ s.spar) : ∃ n, i = .lspa n := by
  revert h
  fun_cases sparAfter i s <;> simp

theorem writer_of_barAfter_ne {i : Instr} {s : State} (h : barAfter i s ≠ s.bar) :
    i = .barc ∨ i = .barz ∨ i = .bari := by
  revert h
  fun_cases barAfter i s <;> simp

theorem writer_of_flagAfter_ne {i : Instr} {s : State} (h : flagAfter i s ≠ s.flag) :
    i = .flgc ∨ i = .flgs ∨ i = .flgt := by
  revert h
  fun_cases flagAfter i s <;> simp

theorem writer_of_idisAfter_ne {i : Instr} {s : State} (h : idisAfter i s ≠ s.idis) :
    i = .ldci ∨ i = .ldcs ∨ i = .inck ∨ i = .inc ∨ (∃ page src, i = .jmp page src) ∨
      (∃ c pol src, i = .br c pol src) ∨ ∃ c pol src, i = .wb c pol src := by
  revert h
  fun_cases idisAfter i s <;> simp

theorem writer_of_irepAfter_ne {i : Instr} {s : State} (h : irepAfter i s ≠ s.irep) :
    ∃ c pol src, i = .wb c pol src := by
  revert h
  fun_cases irepAfter i s <;> simp

theorem writer_of_brcAfter_ne {i : Instr} {s : State} (h : brcAfter i s ≠ s.brc) :
    (∃ c pol src, i = .br c pol src) ∨ ∃ c pol src, i = .wb c pol src := by
  revert h
  fun_cases brcAfter i s <;> simp

theorem unimplemented_of_condEvents_ne_nil {c : CondCode} {ppc : Addr} (h : condEvents c ppc ≠ []) :
    ∃ code, c = .unimplemented code := by
  revert h
  fun_cases condEvents c ppc <;> simp

theorem emitter_of_decodeEvents_ne_nil {i : Instr} {ppc : Addr} {mb : Byte} (h : decodeEvents i ppc mb ≠ []) :
    (∃ low, i = .unimpLow low) ∨ (∃ low, i = .unimpMid low) ∨ (∃ low, i = .unimpHigh low) ∨
      (∃ code pol src, i = .br (.unimplemented code) pol src) ∨
      ∃ code pol src, i = .wb (.unimplemented code) pol src := by
  cases i with
  | br c pol src | wb c pol src =>
    obtain ⟨code, rfl⟩ := unimplemented_of_condEvents_ne_nil h
    simp
  | unimpLow low | unimpMid low | unimpHigh low => simp
  | _ => exact absurd rfl h

/-- Settles O15: each register is changed by its writers only, and CRC by no instruction. -/
theorem frameOfTheDataRegisters : Obligations.FrameOfTheDataRegisters := by
  unfold Obligations.FrameOfTheDataRegisters
  intro i s t h
  obtain rfl := eq_decodeStep_of_exec h
  exact ⟨writer_of_cntrAfter_ne, writer_of_srAfter_ne, writer_of_sparAfter_ne, writer_of_barAfter_ne,
    writer_of_flagAfter_ne, rfl⟩

/-- Settles O16: the control bits by their writers, the trace by the events of the decode step. -/
theorem frameOfTheControlBits : Obligations.FrameOfTheControlBits := by
  unfold Obligations.FrameOfTheControlBits
  intro i s t h
  obtain rfl := eq_decodeStep_of_exec h
  refine ⟨writer_of_idisAfter_ne, writer_of_irepAfter_ne, writer_of_brcAfter_ne, fun htrace => ?_⟩
  have hevents : decodeEvents i s.ppc s.mb ≠ [] := fun hnil => htrace (by simp [hnil])
  exact emitter_of_decodeEvents_ne_nil hevents

/-! ## The cases of a step -/

theorem step_of_idis {s : State} (hidis : s.idis = true) : step s = .next (deferredCycle s) :=
  cycle_deferred hidis

theorem step_of_not_idis {s : State} (hidis : s.idis = false) :
    step s = .next (decodeStep (decodeWord (decodePoint s).mb) (decodePoint s)) := by
  simp [step, cycle, hidis, exec_eq_next]

/-- A step is the deferred cycle when IDIS is set, else the decode step of the word in MB at the decode point
(40_cycle_engine.md R61). -/
theorem step_cases {s t : State} (h : step s = .next t) :
    (s.idis = true ∧ t = deferredCycle s) ∨
      (s.idis = false ∧ t = decodeStep (decodeWord (decodePoint s).mb) (decodePoint s)) := by
  cases hidis : s.idis with
  | true =>
    rw [step_of_idis hidis] at h
    exact .inl ⟨rfl, (Host.Outcome.next.inj h).symm⟩
  | false =>
    rw [step_of_not_idis hidis] at h
    exact .inr ⟨rfl, (Host.Outcome.next.inj h).symm⟩

theorem decodePoint_of_irep {s : State} (hirep : s.irep = true) : decodePoint s = s :=
  if_pos hirep

theorem decodePoint_of_not_irep {s : State} (hirep : s.irep = false) : decodePoint s = fetch s := by
  simp [decodePoint, hirep]

/-- A step with IDIS clear and IREP set decodes MB again, in the state as it stands (40_cycle_engine.md R63). -/
theorem step_repeating {s : State} (hidis : s.idis = false) (hirep : s.irep = true) :
    step s = .next (decodeStep (decodeWord s.mb) s) := by
  rw [step_of_not_idis hidis, decodePoint_of_irep hirep]

/-- A step with both control bits clear fetches and decodes the fetched word (40_cycle_engine.md R63). -/
theorem step_fetching {s : State} (hidis : s.idis = false) (hirep : s.irep = false) :
    step s = .next (decodeStep (decodeWord (romRead s.pc s)) (fetch s)) := by
  rw [step_of_not_idis hidis, decodePoint_of_not_irep hirep, fetch_mb]

@[simp] theorem decodePoint_idis (s : State) : (decodePoint s).idis = s.idis := by
  cases hirep : s.irep <;> simp [decodePoint, hirep]

/-- Settles O17: the deferred cycle and the decode step keep PPC and MB, so they come from the decode point. -/
theorem ppcAndMbWrittenByTheFetchOnly : Obligations.PpcAndMbWrittenByTheFetchOnly := by
  unfold Obligations.PpcAndMbWrittenByTheFetchOnly
  intro s t h
  rcases step_cases h with ⟨hidis, rfl⟩ | ⟨hidis, rfl⟩
  · simp [hidis]
  · cases hirep : s.irep with
    | true => simp [hidis, decodePoint_of_irep hirep]
    | false => simp [hidis, decodePoint_of_not_irep hirep]

/-! ## Facts about the words -/

/-- A word lies in the row of the instruction it decodes to (30_encoding.md R50). -/
theorem covers_row_decodeWord (b : Byte) : (decodeWord b).row.covers b = true := by
  revert b
  decide

theorem decodeWord_of_wb_bits {b : Byte} (h : b &&& 0xC0 = 0xC0) :
    decodeWord b = .wb (condOfField (wordField b)) (b.getLsbD 1) (wordSrc b) := by
  revert b
  decide

theorem wb_bits_of_decodeWord {b : Byte} {c : CondCode} {pol : Bool} {src : Src} (h : decodeWord b = .wb c pol src) :
    b &&& 0xC0 = 0xC0 := by
  have hrow := covers_row_decodeWord b
  rw [h] at hrow
  exact eq_of_beq hrow

/-- The branch class is told by bit 6, its two instructions by bit 7 (30_encoding.md R45). -/
theorem decodeWord_of_bit6 {b : Byte} (h : b.getLsbD 6 = true) :
    decodeWord b = if b.getLsbD 7 then .wb (condOfField (wordField b)) (b.getLsbD 1) (wordSrc b)
      else .br (condOfField (wordField b)) (b.getLsbD 1) (wordSrc b) := by
  rw [decodeWord, if_pos h]

theorem deferringWord_iff (b : Byte) :
    deferringWord b = true ↔ b.getLsbD 6 = true ∨ b &&& 0xC2 = 0x82 ∨ b &&& 0xFD = 0x38 := by
  simp [deferringWord, or_assoc]

/-! ## The invariant -/

/-- Settles O45: both control bits are clear, CRC is 0 and the store has no placed byte. -/
theorem invariantAtReset : Obligations.InvariantAtReset := by
  unfold Obligations.InvariantAtReset
  exact ⟨by decide, by decide, by decide, rfl, Memory.wf_reset⟩

theorem inv_deferredCycle {s : State} (h : Inv s) : Inv (deferredCycle s) := by
  obtain ⟨_, _, _, hcrc, hrom⟩ := h
  exact ⟨by simp, by simp, by simp, hcrc, hrom⟩

/-- A fetch happens only with IREP clear, so the invariant holds at the decode point too. -/
theorem inv_decodePoint {s : State} (h : Inv s) (hidis : s.idis = false) : Inv (decodePoint s) := by
  cases hirep : s.irep with
  | true => rwa [decodePoint_of_irep hirep]
  | false =>
    obtain ⟨_, _, _, hcrc, hrom⟩ := h
    rw [decodePoint_of_not_irep hirep]
    exact ⟨by simp [hirep], by simp [hirep], by simp [hidis], hcrc, hrom⟩

/-- With IDIS clear, only a deferring form sets it. -/
theorem hasSlot_of_idisAfter {i : Instr} {s : State} (hidis : s.idis = false) (h : idisAfter i s = true) :
    i.hasSlot = true := by
  have hwriter := writer_of_idisAfter_ne (i := i) (s := s) (by simp [h, hidis])
  rcases hwriter with rfl | rfl | rfl | rfl | ⟨page, src, rfl⟩ | ⟨c, pol, src, rfl⟩ | ⟨c, pol, src, rfl⟩
  · rfl
  · cases h
  · rfl
  · cases h
  all_goals rfl

/-- Where IREP means that MB is a `WB`, the decode step of MB leaves IREP set for a `WB` only: another word finds it clear
and keeps it. -/
theorem decodeWord_eq_wb_of_irepAfter {s : State} (hwb : s.irep = true → s.mb &&& 0xC0 = 0xC0)
    (h : irepAfter (decodeWord s.mb) s = true) : ∃ c pol src, decodeWord s.mb = .wb c pol src := by
  cases hirep : s.irep with
  | true => exact ⟨_, _, _, decodeWord_of_wb_bits (hwb hirep)⟩
  | false => exact writer_of_irepAfter_ne (s := s) (by simp [h, hirep])

/-- A `WB` never leaves both IDIS and IREP set (41_branch.md R77). -/
theorem idisAfter_wb (c : CondCode) (pol : Bool) (src : Src) (s : State) :
    idisAfter (.wb c pol src) s = !irepAfter (.wb c pol src) s := by
  simp [idisAfter, irepAfter]

theorem inv_decodeStep {s : State} (h : Inv s) (hidis : s.idis = false) : Inv (decodeStep (decodeWord s.mb) s) := by
  obtain ⟨_, hwb, _, hcrc, hrom⟩ := h
  refine ⟨?_, ?_, ?_, hcrc, hrom⟩
  · rintro ⟨hirep', hidis'⟩
    rw [decodeStep_irep] at hirep'
    rw [decodeStep_idis] at hidis'
    obtain ⟨c, pol, src, hi⟩ := decodeWord_eq_wb_of_irepAfter hwb hirep'
    rw [hi] at hirep' hidis'
    simp [idisAfter_wb, hirep'] at hidis'
  · intro hirep'
    obtain ⟨c, pol, src, hi⟩ := decodeWord_eq_wb_of_irepAfter hwb hirep'
    exact wb_bits_of_decodeWord hi
  · intro hidis'
    have hslot := hasSlot_of_idisAfter hidis hidis'
    rw [hasSlot_decodeWord] at hslot
    exact (deferringWord_iff s.mb).mp hslot

/-- Settles O46: the deferred cycle keeps the invariant; a decode cycle keeps it to its decode point and over the decode
step. -/
theorem everyStepKeepsTheInvariant : Obligations.EveryStepKeepsTheInvariant := by
  unfold Obligations.EveryStepKeepsTheInvariant
  intro s t hinv h
  rcases step_cases h with ⟨_, rfl⟩ | ⟨hidis, rfl⟩
  · exact inv_deferredCycle hinv
  · exact inv_decodeStep (inv_decodePoint hinv hidis) ((decodePoint_idis s).trans hidis)

/-! ## The freshness of BRC -/

/-- The field in place names the condition code the decoder reads (30_encoding.md R51). -/
theorem condValue_condOfField (b : Byte) (s : State) : condValue (condOfField (wordField b)) s = bitCond (b &&& 0x3C) s := by
  have h4 : b &&& 0x3C = 0x10 ↔ wordField b = 4 := by revert b; decide
  have h5 : b &&& 0x3C = 0x14 ↔ wordField b = 5 := by revert b; decide
  have h6 : b &&& 0x3C = 0x18 ↔ wordField b = 6 := by revert b; decide
  have h15 : b &&& 0x3C = 0x3C ↔ wordField b = 15 := by revert b; decide
  simp only [bitCond, h4, h5, h6, h15, condOfField]
  split_ifs <;> rfl

/-- A word of the branch class stores its decision: the condition in its field against its polarity bit
(41_branch.md R75). -/
theorem brcAfter_of_bit6 {s : State} (h : s.mb.getLsbD 6 = true) :
    brcAfter (decodeWord s.mb) s = (bitCond (s.mb &&& 0x3C) s == s.mb.getLsbD 1) := by
  rw [← condValue_condOfField, decodeWord_of_bit6 h]
  split <;> rfl

/-- Settles O47: the deferred cycle leaves none pending, and a decode step of the branch class writes BRC. -/
theorem brcIsFreshWhenRead : Obligations.BrcIsFreshWhenRead := by
  unfold Obligations.BrcIsFreshWhenRead
  intro s t h hidis hbit6
  rcases step_cases h with ⟨_, rfl⟩ | ⟨_, rfl⟩
  · cases hidis
  · exact ⟨rfl, brcAfter_of_bit6 hbit6⟩

/-! ## What no logic reads -/

theorem decodePoint_setBar (s : State) (v : Addr) :
    decodePoint { s with bar := v } = { decodePoint s with bar := v } := by
  rcases Bool.eq_false_or_eq_true s.irep with hirep | hirep
  · rw [decodePoint_of_irep hirep]
    exact decodePoint_of_irep hirep
  · rw [decodePoint_of_not_irep hirep]
    exact decodePoint_of_not_irep hirep

/-- No register but BAR depends on BAR. -/
theorem decodeStep_setBar (i : Instr) (s : State) (v : Addr) :
    decodeStep i { s with bar := v } = { decodeStep i s with bar := barAfter i { s with bar := v } } := rfl

/-- Settles O54: neither the deferred cycle, the fetch nor a decode step reads BAR. -/
theorem barIsReadByNothing : Obligations.BarIsReadByNothing := by
  unfold Obligations.BarIsReadByNothing
  intro s v
  rcases Bool.eq_false_or_eq_true s.idis with hidis | hidis
  · exact ⟨_, _, step_of_idis hidis, step_of_idis hidis, rfl⟩
  · refine ⟨_, _, step_of_not_idis hidis, step_of_not_idis hidis, ?_⟩
    rw [decodePoint_setBar, decodeStep_setBar]

/-- No register but PPC depends on PPC, and the trace does through the events of the decode step only. -/
theorem decodeStep_setPpc (i : Instr) (s : State) (p : Addr) :
    decodeStep i { s with ppc := p } =
      { decodeStep i s with ppc := p, trace := s.trace ++ decodeEvents i p s.mb } := rfl

theorem fetch_setPpc (s : State) (p : Addr) : fetch { s with ppc := p } = fetch s := rfl

/-- PPC reaches an event as the address of a diagnostic only (60_exceptions.md R113, R114). -/
theorem map_withoutPpc_decodeEvents (i : Instr) (p q : Addr) (mb : Byte) :
    (decodeEvents i p mb).map Event.withoutPpc = (decodeEvents i q mb).map Event.withoutPpc := by
  cases i with
  | br c pol src | wb c pol src => cases c <;> rfl
  | _ => rfl

/-- Settles O53: the deferred cycle emits nothing, a repeat reads PPC for its events only, and a fetch overwrites it
first. -/
theorem ppcIsReadByNoLogic : Obligations.PpcIsReadByNoLogic := by
  unfold Obligations.PpcIsReadByNoLogic
  intro s p
  rcases Bool.eq_false_or_eq_true s.idis with hidis | hidis
  · exact ⟨_, _, [], [], step_of_idis hidis, step_of_idis hidis, by simp, by simp, rfl, rfl, by simp [hidis]⟩
  rcases Bool.eq_false_or_eq_true s.irep with hirep | hirep
  · exact ⟨_, _, _, _, step_repeating hidis hirep, step_repeating hidis hirep, rfl, rfl,
      map_withoutPpc_decodeEvents _ _ _ _, decodeStep_setPpc _ s p, by simp [hirep]⟩
  · have htrace := List.append_assoc s.trace [.fetch s.pc]
      (decodeEvents (decodeWord (romRead s.pc s)) s.pc (romRead s.pc s))
    have hsame := congrArg (decodeStep (decodeWord (romRead s.pc s))) (fetch_setPpc s p)
    exact ⟨_, _, _, _, step_fetching hidis hirep, step_fetching hidis hirep, htrace, htrace, rfl,
      hsame, fun _ _ => hsame⟩

end Sys2Proof.Machine

/-!
The two memories over a decode step and over a step: what is written, and what is read (20_memory.md R31 to R34, R43); then
the canonical form of the instruction store (log entry 5).
-/

namespace Sys2Proof.Machine

/-! ## What a decode step does to the memories -/

/-- The cell SPAR names becomes SR in an `STSR`; every other cell is kept (43_function.md R97). -/
theorem spRead_decodeStep (i : Instr) (s : State) (j : Nibble) :
    spRead j (decodeStep i s) = if i = .stsr ∧ j = s.spar then s.sr else spRead j s := by
  cases i with
  | stsr =>
    have hwrite : spRead j (decodeStep .stsr s) = spRead j (spWrite s.spar s.sr s) := spRead_congr rfl j
    simp [hwrite, spRead_spWrite]
  | _ => exact (if_neg (by simp)).symm

/-- A cell that is no store's target is kept. -/
theorem spRead_decodeStep_of_not_target {i : Instr} {s : State} {j : Nibble} (h : i = .stsr → j ≠ s.spar) :
    spRead j (decodeStep i s) = spRead j s := by
  rw [spRead_decodeStep, if_neg (fun ⟨hi, hj⟩ => h hi hj)]

/-- Settles O14: no decode step writes the store, and only the target of an `STSR` changes in the scratchpad. -/
theorem frameOfTheMemories : Obligations.FrameOfTheMemories := by
  unfold Obligations.FrameOfTheMemories
  intro i s t h
  obtain rfl := eq_decodeStep_of_exec h
  exact ⟨romRead_congr rfl, fun _ => spRead_decodeStep_of_not_target⟩

/-- Settles O28: `STSR` leaves SR in the cell SPAR names, and `LDCS` loads that cell. -/
theorem scratchpadRoundTrip : Obligations.ScratchpadRoundTrip := by
  unfold Obligations.ScratchpadRoundTrip
  intro s t u h hsp hspar
  obtain rfl := eq_decodeStep_of_exec h
  refine ⟨_, exec_eq_next .ldcs u, ?_⟩
  calc spRead u.spar u
      = spRead s.spar (decodeStep .stsr s) := by rw [hspar, spRead_congr hsp]
    _ = s.sr := by simp [spRead_decodeStep]

/-! ## What a step writes -/

/-- What a fetch leaves alone is the same at the decode point. -/
theorem decodePoint_keeps {α : Type} (field : State → α) (hfetch : ∀ s, field (fetch s) = field s) (s : State) :
    field (decodePoint s) = field s := by
  rcases Bool.eq_false_or_eq_true s.irep with hirep | hirep
  · rw [decodePoint_of_irep hirep]
  · rw [decodePoint_of_not_irep hirep, hfetch]

@[simp] theorem decodePoint_rom (s : State) : (decodePoint s).rom = s.rom := decodePoint_keeps State.rom fetch_rom s
@[simp] theorem decodePoint_sp (s : State) : (decodePoint s).sp = s.sp := decodePoint_keeps State.sp fetch_sp s
@[simp] theorem decodePoint_spar (s : State) : (decodePoint s).spar = s.spar := decodePoint_keeps State.spar fetch_spar s
@[simp] theorem decodePoint_sr (s : State) : (decodePoint s).sr = s.sr := decodePoint_keeps State.sr fetch_sr s
@[simp] theorem decodePoint_crc (s : State) : (decodePoint s).crc = s.crc := decodePoint_keeps State.crc fetch_crc s

theorem stsr_bits_of_decodeWord {b : Byte} (h : decodeWord b = .stsr) : b &&& 0xFC = 0x34 := by
  have hrow := covers_row_decodeWord b
  rw [h] at hrow
  exact eq_of_beq hrow

/-- Settles O18: the deferred cycle and the fetch write no memory, so a changed cell is the target of an `STSR`. -/
theorem stepWritesNoMemoryButTheStoredCell : Obligations.StepWritesNoMemoryButTheStoredCell := by
  unfold Obligations.StepWritesNoMemoryButTheStoredCell
  intro s t h
  rcases step_cases h with ⟨_, rfl⟩ | ⟨hidis, rfl⟩
  · exact ⟨rfl, rfl, fun _ hne => absurd rfl hne⟩
  · refine ⟨decodePoint_rom s, decodePoint_crc s, fun j hne => ?_⟩
    obtain ⟨hstsr, hspar⟩ : decodeWord (decodePoint s).mb = .stsr ∧ j = (decodePoint s).spar := by
      by_contra hno
      exact hne (by rw [spRead_decodeStep, if_neg hno, spRead_congr (decodePoint_sp s)])
    refine ⟨hidis, stsr_bits_of_decodeWord hstsr, hspar.trans (decodePoint_spar s), ?_⟩
    rw [spRead_decodeStep, if_pos ⟨hstsr, hspar⟩, decodePoint_sr]

/-! ## What a step reads -/

/-- The deferred cycle reads the memories through the multiplexer only (40_cycle_engine.md R62). -/
theorem deferredPc_congr {s t : State} (hpc : t.pc = s.pc) (hmb : t.mb = s.mb) (hbrc : t.brc = s.brc)
    (hmux : ∀ src, muxOf src t = muxOf src s) : deferredPc t = deferredPc s := by
  simp only [deferredPc, mux, hpc, hmb, hbrc, hmux]

/-- CNTR after a decode step depends on the memories through the multiplexer only (43_function.md R98, R99). -/
theorem cntrAfter_congr {s t : State} (hcntr : t.cntr = s.cntr) (hmux : ∀ src, muxOf src t = muxOf src s) (i : Instr) :
    cntrAfter i t = cntrAfter i s := by
  cases i with
  | ldci => exact hmux .rom
  | ldcs => exact hmux .sp
  | inck | inc | wb c pol src => exact congrArg (· + 1) hcntr
  | _ => exact hcntr

section Store

variable {s : State} {m : Memory}

/-- The multiplexer reads the store at PC only (40_cycle_engine.md R65). -/
theorem muxOf_setRom (h : Memory.read m s.pc.toNat = Memory.read s.rom s.pc.toNat) (src : Src) :
    muxOf src { s with rom := m } = muxOf src s := by
  cases src with
  | rom => exact h
  | sp => rfl

theorem deferredCycle_setRom (h : Memory.read m s.pc.toNat = Memory.read s.rom s.pc.toNat) :
    deferredCycle { s with rom := m } = { deferredCycle s with rom := m } := by
  have hpc : deferredPc { s with rom := m } = deferredPc s := deferredPc_congr rfl rfl rfl (muxOf_setRom h)
  rw [deferredCycle, hpc]
  rfl

theorem decodeStep_setRom (h : Memory.read m s.pc.toNat = Memory.read s.rom s.pc.toNat) (i : Instr) :
    decodeStep i { s with rom := m } = { decodeStep i s with rom := m } := by
  have hcntr := cntrAfter_congr (s := s) (t := { s with rom := m }) rfl (muxOf_setRom h) i
  rw [decodeStep, hcntr]
  rfl

/-- The fetch reads the store at PC only (40_cycle_engine.md R63). -/
theorem decodePoint_setRom (h : Memory.read m s.pc.toNat = Memory.read s.rom s.pc.toNat) :
    decodePoint { s with rom := m } = { decodePoint s with rom := m } := by
  rcases Bool.eq_false_or_eq_true s.irep with hirep | hirep
  · rw [decodePoint_of_irep hirep]
    exact decodePoint_of_irep hirep
  · have hword : romRead s.pc { s with rom := m } = romRead s.pc s := h
    rw [decodePoint_of_not_irep hirep, decodePoint_of_not_irep (s := { s with rom := m }) hirep, fetch, hword]
    rfl

/-- PC at the decode point is PC in a repeat and the slot address after a fetch, so stores that agree at both addresses
agree there. -/
theorem read_decodePoint_pc (hpc : Memory.read m s.pc.toNat = Memory.read s.rom s.pc.toNat)
    (hslot : Memory.read m (slotAddress s.pc).toNat = Memory.read s.rom (slotAddress s.pc).toNat) :
    Memory.read m (decodePoint s).pc.toNat = Memory.read (decodePoint s).rom (decodePoint s).pc.toNat := by
  rcases Bool.eq_false_or_eq_true s.irep with hirep | hirep
  · rw [decodePoint_of_irep hirep]
    exact hpc
  · rw [decodePoint_of_not_irep hirep]
    exact hslot

end Store

/-- Settles O55: the deferred cycle and the fetch read the store at PC, and the decode step at PC of the decode point. -/
theorem stepReadsTheStoreAtPcAndSlot : Obligations.StepReadsTheStoreAtPcAndSlot := by
  unfold Obligations.StepReadsTheStoreAtPcAndSlot
  intro s m hpc hslot
  rcases Bool.eq_false_or_eq_true s.idis with hidis | hidis
  · refine ⟨_, step_of_idis hidis, ?_⟩
    rw [← deferredCycle_setRom hpc]
    exact step_of_idis hidis
  · refine ⟨_, step_of_not_idis hidis, ?_⟩
    have hstep := step_of_not_idis (s := { s with rom := m }) hidis
    rwa [decodePoint_setRom hpc, decodeStep_setRom (read_decodePoint_pc hpc hslot)] at hstep

section Scratchpad

variable {s : State} {v : Vector Byte 16}

/-- The multiplexer reads the scratchpad at the cell SPAR names only (40_cycle_engine.md R65). -/
theorem muxOf_setSp (h : spRead s.spar { s with sp := v } = spRead s.spar s) (src : Src) :
    muxOf src { s with sp := v } = muxOf src s := by
  cases src with
  | rom => rfl
  | sp => exact h

theorem deferredCycle_setSp (h : spRead s.spar { s with sp := v } = spRead s.spar s) :
    deferredCycle { s with sp := v } = { deferredCycle s with sp := v } := by
  have hpc : deferredPc { s with sp := v } = deferredPc s := deferredPc_congr rfl rfl rfl (muxOf_setSp h)
  rw [deferredCycle, hpc]
  rfl

theorem decodeStep_setSp (h : spRead s.spar { s with sp := v } = spRead s.spar s) (i : Instr) :
    decodeStep i { s with sp := v } = { decodeStep i s with sp := spAfter i { s with sp := v } } := by
  have hcntr := cntrAfter_congr (s := s) (t := { s with sp := v }) rfl (muxOf_setSp h) i
  rw [decodeStep, hcntr]
  rfl

/-- The fetch reads no cell of the scratchpad. -/
theorem decodePoint_setSp : decodePoint { s with sp := v } = { decodePoint s with sp := v } := by
  rcases Bool.eq_false_or_eq_true s.irep with hirep | hirep
  · rw [decodePoint_of_irep hirep]
    exact decodePoint_of_irep hirep
  · rw [decodePoint_of_not_irep hirep]
    exact decodePoint_of_not_irep hirep

/-- Scratchpads that agree in the cell SPAR names agree in it after the decode step: it keeps the cell or stores SR in it. -/
theorem spRead_spar_decodeStep_setSp (h : spRead s.spar { s with sp := v } = spRead s.spar s) (i : Instr) :
    spRead s.spar (decodeStep i { s with sp := v }) = spRead s.spar (decodeStep i s) := by
  rw [spRead_decodeStep, spRead_decodeStep, h]

end Scratchpad

/-- Settles O56: the deferred cycle and the decode step read the scratchpad through the multiplexer, and write no cell but
the one SPAR names. -/
theorem stepReadsTheScratchpadAtSparOnly : Obligations.StepReadsTheScratchpadAtSparOnly := by
  unfold Obligations.StepReadsTheScratchpadAtSparOnly
  intro s v h
  rcases Bool.eq_false_or_eq_true s.idis with hidis | hidis
  · exact ⟨_, _, step_of_idis hidis, step_of_idis hidis, deferredCycle_setSp h, h, fun _ _ => ⟨rfl, rfl⟩⟩
  · have hspar := decodePoint_spar s
    have hcell (j : Nibble) : spRead j (decodePoint s) = spRead j s := spRead_congr (decodePoint_sp s) j
    have hp : spRead (decodePoint s).spar { decodePoint s with sp := v } = spRead (decodePoint s).spar (decodePoint s) := by
      rw [hspar, hcell]
      exact h
    have hother : ∀ j ≠ s.spar, j ≠ (decodePoint s).spar := by simp
    refine ⟨_, _, step_of_not_idis hidis, step_of_not_idis hidis, ?_⟩
    rw [decodePoint_setSp]
    refine ⟨decodeStep_setSp hp _, hspar ▸ spRead_spar_decodeStep_setSp hp _, fun j hj => ⟨?_, ?_⟩⟩
    · rw [spRead_decodeStep_of_not_target (fun _ => hother j hj), hcell]
    · exact spRead_decodeStep_of_not_target (fun _ => hother j hj)

/-! ## The canonical form of the store -/

theorem Memory.placed_cons_self (b : Nat) (v : Byte) (m : Memory) : Memory.placed ((b, v) :: m) b = some v := by
  rw [Memory.placed_cons, if_pos rfl]

theorem Memory.wfFrom_cons {lo b : Nat} {v : Byte} {m : Memory} :
    Memory.wfFrom lo ((b, v) :: m) = true ↔ lo ≤ b ∧ b < Memory.size ∧ Memory.wfFrom (b + 1) m = true := by
  simp [Memory.wfFrom, and_assoc]

/-- The first address of a canonical memory is the least placed one. -/
theorem Memory.first_le_of_placed {lo b a : Nat} {v w : Byte} {m : Memory} (hw : Memory.wfFrom lo ((b, v) :: m) = true)
    (h : Memory.placed ((b, v) :: m) a = some w) : b ≤ a := by
  by_contra hlt
  obtain ⟨_, hsize, htail⟩ := Memory.wfFrom_cons.mp hw
  have hfirst : Memory.wfFrom b ((b, v) :: m) = true := Memory.wfFrom_cons.mpr ⟨le_rfl, hsize, htail⟩
  rw [Memory.placed_below hfirst (not_le.mp hlt)] at h
  cases h

/-- Canonical memories with the same bytes placed start with the same pair. -/
theorem Memory.first_eq_of_placed_eq {lo b b' : Nat} {v v' : Byte} {m m' : Memory}
    (hw : Memory.wfFrom lo ((b, v) :: m) = true) (hw' : Memory.wfFrom lo ((b', v') :: m') = true)
    (h : ∀ a < Memory.size, Memory.placed ((b, v) :: m) a = Memory.placed ((b', v') :: m') a) : b = b' ∧ v = v' := by
  obtain ⟨_, hb, _⟩ := Memory.wfFrom_cons.mp hw
  obtain ⟨_, hb', _⟩ := Memory.wfFrom_cons.mp hw'
  have hle : b ≤ b' := Memory.first_le_of_placed hw ((h b' hb').trans (Memory.placed_cons_self b' v' m'))
  have hge : b' ≤ b := Memory.first_le_of_placed hw' ((h b hb).symm.trans (Memory.placed_cons_self b v m))
  obtain rfl : b = b' := le_antisymm hle hge
  have hbyte := h b hb
  rw [Memory.placed_cons_self, Memory.placed_cons_self] at hbyte
  exact ⟨rfl, Option.some.inj hbyte⟩

/-- After the same first pair, canonical memories with the same bytes placed have the same bytes placed in their rests. -/
theorem Memory.placed_eq_of_placed_cons_eq {b a : Nat} {v : Byte} {m m' : Memory} (hw : Memory.wfFrom (b + 1) m = true)
    (hw' : Memory.wfFrom (b + 1) m' = true) (h : Memory.placed ((b, v) :: m) a = Memory.placed ((b, v) :: m') a) :
    Memory.placed m a = Memory.placed m' a := by
  by_cases hab : a = b
  · rw [Memory.placed_below hw (by omega), Memory.placed_below hw' (by omega)]
  · rwa [Memory.placed_cons, Memory.placed_cons, if_neg hab, if_neg hab] at h

/-- A canonical memory is determined by the bytes placed in it. -/
theorem Memory.eq_of_placed_eq {lo : Nat} {m m' : Memory} (hw : Memory.wfFrom lo m = true) (hw' : Memory.wfFrom lo m' = true)
    (h : ∀ a < Memory.size, Memory.placed m a = Memory.placed m' a) : m = m' := by
  induction m generalizing lo m' with
  | nil =>
    cases m' with
    | nil => rfl
    | cons c m' =>
      have hnone := h c.1 (Memory.wfFrom_cons.mp hw').2.1
      rw [Memory.placed_cons_self] at hnone
      cases hnone
  | cons c m ih =>
    cases m' with
    | nil =>
      have hnone := h c.1 (Memory.wfFrom_cons.mp hw).2.1
      rw [Memory.placed_cons_self] at hnone
      cases hnone
    | cons c' m' =>
      obtain ⟨b, v⟩ := c
      obtain ⟨b', v'⟩ := c'
      obtain ⟨rfl, rfl⟩ := Memory.first_eq_of_placed_eq hw hw' h
      obtain ⟨_, _, htail⟩ := Memory.wfFrom_cons.mp hw
      obtain ⟨_, _, htail'⟩ := Memory.wfFrom_cons.mp hw'
      rw [ih htail htail' fun a ha => Memory.placed_eq_of_placed_cons_eq htail htail' (h a ha)]

/-- A placed byte is what a read gives, so memories placed alike that read alike there hold the same byte. -/
theorem Memory.placed_eq_of_read_eq {m m' : Memory} {a : Nat}
    (hplaced : (Memory.placed m a).isSome = (Memory.placed m' a).isSome)
    (hread : (Memory.placed m a).isSome = true → Memory.read m a = Memory.read m' a) :
    Memory.placed m a = Memory.placed m' a := by
  cases hm : Memory.placed m a with
  | none =>
    rw [hm, Option.isSome_none] at hplaced
    exact (Option.isNone_iff_eq_none.mp (Option.isSome_eq_false_iff.mp hplaced.symm)).symm
  | some v =>
    rw [hm, Option.isSome_some] at hplaced
    obtain ⟨v', hm'⟩ := Option.isSome_iff_exists.mp hplaced.symm
    have hbyte := hread (Option.isSome_of_eq_some hm)
    rw [Memory.read_placed hm, Memory.read_placed hm'] at hbyte
    rw [hm', hbyte]

/-- Settles O48: what is placed and what it reads as give the bytes placed, and those give the list. -/
theorem canonicalStoreIsDeterminedByItsBytes : Obligations.CanonicalStoreIsDeterminedByItsBytes := by
  unfold Obligations.CanonicalStoreIsDeterminedByItsBytes
  intro m m' hw hw' hplaced hread
  refine Memory.eq_of_placed_eq hw hw' fun a ha => ?_
  exact Memory.placed_eq_of_read_eq (hplaced (BitVec.ofNatLT a ha)) (hread (BitVec.ofNatLT a ha))

/-- Any contents of the first cells is placed by writing them one after the other. -/
theorem Memory.exists_wf_read_eq (f : Nat → Byte) {n : Nat} (hn : n ≤ Memory.size) :
    ∃ m : Memory, Memory.wf m = true ∧ ∀ a < n, Memory.read m a = f a := by
  induction n with
  | zero => exact ⟨[], rfl, by simp⟩
  | succ n ih =>
    obtain ⟨m, hw, hread⟩ := ih (by omega)
    refine ⟨Memory.write m n (f n), Memory.wfFrom_write (f n) hw (Nat.zero_le n) hn, fun a ha => ?_⟩
    rw [Memory.read_write]
    split
    · next heq => rw [heq]
    · exact hread a (by omega)

/-- Settles O49: all 4096 cells are placed, so no free value is read. -/
theorem everyContentsIsAStore : Obligations.EveryContentsIsAStore := by
  unfold Obligations.EveryContentsIsAStore
  intro f s
  obtain ⟨m, hw, hread⟩ := Memory.exists_wf_read_eq (fun a => f (BitVec.ofNat 12 a)) le_rfl
  refine ⟨m, hw, fun a => ?_⟩
  calc Memory.read m a.toNat
      = f (BitVec.ofNat 12 a.toNat) := hread a.toNat a.isLt
    _ = f a := by rw [BitVec.ofNat_toNat, BitVec.setWidth_eq]

end Sys2Proof.Machine

/-!
The decoder and the encoder of control words (30_encoding.md): each undoes the other up to the ignored bits, on words and on
lists of bytes; the opcode map as a partition; and the words whose decode step emits a diagnostic.
-/

namespace Sys2Proof.Machine

/-! ## The decoder undoes the encoder -/

/-- The word of a `BR` decodes to its field's condition, its polarity and its source (30_encoding.md R47, R51). -/
theorem decodeWord_brWord (f : Nibble) (pol : Bool) (src : Src) :
    decodeWord (0b01#2 ++ f ++ bitOf pol ++ src.bit) = .br (condOfField f) pol src := by
  cases pol <;> cases src <;> (revert f; decide)

/-- The word of a `WB` decodes to its field's condition, its polarity and its source (30_encoding.md R47, R51). -/
theorem decodeWord_wbWord (f : Nibble) (pol : Bool) (src : Src) :
    decodeWord (0b11#2 ++ f ++ bitOf pol ++ src.bit) = .wb (condOfField f) pol src := by
  cases pol <;> cases src <;> (revert f; decide)

theorem decodeWord_jmpWord (page : Nibble) (src : Src) : decodeWord (0b10#2 ++ page ++ 1#1 ++ src.bit) = .jmp page src := by
  cases src <;> (revert page; decide)

theorem decodeWord_encodeWord {i : Instr} (h : i.wellFormed = true) : decodeWord (encodeWord i) = i := by
  cases i with
  | br c pol src => rw [encodeWord, decodeWord_brWord, condOfField_code h]
  | wb c pol src => rw [encodeWord, decodeWord_wbWord, condOfField_code h]
  | jmp page src => exact decodeWord_jmpWord page src
  | lspa n => revert n; decide
  | unimpLow low | unimpMid low | unimpHigh low => revert low; decide
  | _ => decide

/-- Settles O2: the branch class by the field of its condition, the other words by their own operands. -/
theorem decodeOfEncodeIsTheInstruction : Obligations.DecodeOfEncodeIsTheInstruction := by
  unfold Obligations.DecodeOfEncodeIsTheInstruction
  exact fun _ => decodeWord_encodeWord

/-! ## Lists of bytes -/

theorem decodeBytes_of_not_hasSlot {b : Byte} (h : (decodeWord b).hasSlot = false) (rest : List Byte) :
    decodeBytes (b :: rest) = .ok (⟨decodeWord b, none⟩, rest) := by
  simp [decodeBytes, h]

theorem decodeBytes_of_hasSlot {b : Byte} (h : (decodeWord b).hasSlot = true) (slot : Byte) (rest : List Byte) :
    decodeBytes (b :: slot :: rest) = .ok (⟨decodeWord b, some slot⟩, rest) := by
  simp [decodeBytes, h]

theorem decodeBytes_without_slot {b : Byte} (h : (decodeWord b).hasSlot = true) :
    decodeBytes [b] = .error (.noSlotByte (decodeWord b)) := by
  simp [decodeBytes, h]

/-- Settles O3: the control word decodes back, and the slot byte is there exactly when the decoder takes one. -/
theorem decodeOfEncodedBytes : Obligations.DecodeOfEncodedBytes := by
  unfold Obligations.DecodeOfEncodedBytes
  rintro ⟨i, slot⟩ rest h
  obtain ⟨hi, hslot⟩ : i.wellFormed = true ∧ slot.isSome = i.hasSlot := by simpa [Placed.wellFormed] using h
  have hword := decodeWord_encodeWord hi
  rw [← hword] at hslot
  cases slot with
  | none => simpa [encode, hword] using decodeBytes_of_not_hasSlot hslot.symm rest
  | some v => simpa [encode, hword] using decodeBytes_of_hasSlot hslot.symm v rest

/-- Settles O8: only the empty list and a deferring form alone are refused. -/
theorem byteListsRefusedByName : Obligations.ByteListsRefusedByName := by
  unfold Obligations.ByteListsRefusedByName
  intro l e
  cases l with
  | nil => simp [decodeBytes, eq_comm (b := e)]
  | cons b rest =>
    have hword := hasSlot_decodeWord b
    cases hslot : (decodeWord b).hasSlot with
    | false => simp [decodeBytes_of_not_hasSlot hslot, ← hword, hslot]
    | true =>
      cases rest with
      | nil => simp [decodeBytes_without_slot hslot, ← hword, hslot, eq_comm (b := e)]
      | cons slot rest => simp [decodeBytes_of_hasSlot hslot]

/-- Settles O7: the deferring forms are the words that pass the bit test. -/
theorem lengthFromTheWordAlone : Obligations.LengthFromTheWordAlone := by
  unfold Obligations.LengthFromTheWordAlone
  intro b
  simp only [Instr.length, hasSlot_decodeWord, deferringWord_iff]

/-! ## The encoder undoes the decoder up to the ignored bits -/

theorem wellFormed_decodeWord (b : Byte) : (decodeWord b).wellFormed = true := by
  revert b
  decide

theorem encodeWord_decodeWord (b : Byte) : encodeWord (decodeWord b) = b &&& ~~~ ignoredBits b := by
  revert b
  decide

/-- The decoder ignores the ignored bits (30_encoding.md R52). -/
theorem decodeWord_clear_ignoredBits (b : Byte) : decodeWord (b &&& ~~~ ignoredBits b) = decodeWord b := by
  rw [← encodeWord_decodeWord, decodeWord_encodeWord (wellFormed_decodeWord b)]

/-- Settles O4, by evaluating the decoder and the encoder on the 256 words. -/
theorem encodeOfDecodeClearsIgnoredBits : Obligations.EncodeOfDecodeClearsIgnoredBits := by
  unfold Obligations.EncodeOfDecodeClearsIgnoredBits
  exact fun b => ⟨wellFormed_decodeWord b, encodeWord_decodeWord b⟩

/-- Settles O5: the encoder takes the instruction to the word without its ignored bits, and the decoder takes that word back
to the instruction. -/
theorem sameInstructionIffEqualOutsideIgnoredBits : Obligations.SameInstructionIffEqualOutsideIgnoredBits := by
  unfold Obligations.SameInstructionIffEqualOutsideIgnoredBits
  intro b b'
  constructor
  · intro h
    rw [← encodeWord_decodeWord, h, encodeWord_decodeWord]
  · intro h
    rw [← decodeWord_clear_ignoredBits b, h, decodeWord_clear_ignoredBits]

/-- Settles O1, by evaluating the decoder on each word. -/
theorem writtenOutWordsDecode : Obligations.WrittenOutWordsDecode := by
  unfold Obligations.WrittenOutWordsDecode
  decide

/-! ## The opcode map -/

theorem row_mem_opcodeMap (i : Instr) : i.row ∈ opcodeMap := by
  cases i <;> simp [opcodeMap, Instr.row]

/-- Rows whose patterns differ in a bit that both masks test share no word. -/
theorem not_covers_both {r r' : OpcodeRow} (h : r.pattern &&& r'.mask ≠ r'.pattern &&& r.mask) (b : Byte) :
    ¬(r.covers b = true ∧ r'.covers b = true) := by
  rintro ⟨hr, hr'⟩
  refine h ?_
  rw [← eq_of_beq hr, ← eq_of_beq hr', BitVec.and_assoc, BitVec.and_comm r.mask, ← BitVec.and_assoc]

theorem opcodeMap_pairwise : opcodeMap.Pairwise fun r r' => r.pattern &&& r'.mask ≠ r'.pattern &&& r.mask := by
  decide

/-- A list in which no two entries pass a test filters to the one entry that does. -/
theorem filter_eq_singleton_of_pairwise {α : Type} {p : α → Bool} {l : List α} {a : α}
    (hl : l.Pairwise fun x y => ¬(p x = true ∧ p y = true)) (hmem : a ∈ l) (ha : p a = true) : l.filter p = [a] := by
  induction hl with
  | nil => cases hmem
  | @cons x l hx _ ih =>
    rcases List.mem_cons.mp hmem with rfl | htail
    · have hrest : l.filter p = [] := List.filter_eq_nil_iff.mpr fun y hy hp => hx y hy ⟨ha, hp⟩
      rw [List.filter_cons_of_pos ha, hrest]
    · rw [List.filter_cons_of_neg fun hp => hx a htail ⟨hp, ha⟩, ih htail]

/-- Settles O6: no two rows share a word, and a word lies in its instruction's row. -/
theorem opcodeMapPartitionsTheWords : Obligations.OpcodeMapPartitionsTheWords := by
  unfold Obligations.OpcodeMapPartitionsTheWords
  refine ⟨rfl, fun b => ?_⟩
  exact filter_eq_singleton_of_pairwise (opcodeMap_pairwise.imp fun h => not_covers_both h b)
    (row_mem_opcodeMap (decodeWord b)) (covers_row_decodeWord b)

/-! ## The diagnostics of a cycle -/

theorem condEvents_eq_nil_iff {c : CondCode} {ppc : Addr} :
    condEvents c ppc = [] ↔ c = .sr7 ∨ c = .tc ∨ c = .crc0 ∨ c = .flg := by
  cases c <;> simp [condEvents]

/-- The instructions whose decode step emits nothing: no unimplemented condition, no unimplemented function code
(30_encoding.md R53, R54). -/
theorem decodeEvents_eq_nil_iff {i : Instr} {ppc : Addr} {mb : Byte} :
    decodeEvents i ppc mb = [] ↔
      (∀ c pol src, i = .br c pol src ∨ i = .wb c pol src → c = .sr7 ∨ c = .tc ∨ c = .crc0 ∨ c = .flg) ∧
        i.row.mnemonic ≠ "UNIMP" := by
  cases i with
  | br c pol src | wb c pol src => simp [decodeEvents, condEvents_eq_nil_iff, Instr.row]
  | _ => simp [decodeEvents, Instr.row]

theorem isDiagnostic_of_mem_condEvents {c : CondCode} {ppc : Addr} {e : Event} (h : e ∈ condEvents c ppc) :
    e.isDiagnostic = true := by
  cases c with
  | unimplemented code =>
    obtain rfl := List.mem_singleton.mp h
    rfl
  | _ => cases h

/-- A decode step emits no event but diagnostics (60_exceptions.md R113, R114). -/
theorem isDiagnostic_of_mem_decodeEvents {i : Instr} {ppc : Addr} {mb : Byte} {e : Event} (h : e ∈ decodeEvents i ppc mb) :
    e.isDiagnostic = true := by
  cases i with
  | br c pol src | wb c pol src => exact isDiagnostic_of_mem_condEvents h
  | unimpLow low | unimpMid low | unimpHigh low =>
    obtain rfl := List.mem_singleton.mp h
    rfl
  | _ => cases h

theorem noDiagnostic_decodePoint {s : State} (h : noDiagnostic s) : noDiagnostic (decodePoint s) := by
  rcases Bool.eq_false_or_eq_true s.irep with hirep | hirep
  · rwa [decodePoint_of_irep hirep]
  · rw [decodePoint_of_not_irep hirep]
    simpa [noDiagnostic, or_imp, forall_and, Event.isDiagnostic] using h

/-- A decode step keeps a trace free of diagnostics exactly when it emits nothing. -/
theorem noDiagnostic_decodeStep_iff {s : State} (h : noDiagnostic s) (i : Instr) :
    noDiagnostic (decodeStep i s) ↔ decodeEvents i s.ppc s.mb = [] := by
  constructor
  · intro hnew
    refine List.eq_nil_iff_forall_not_mem.mpr fun e he => ?_
    have hfree := hnew e (List.mem_append_right s.trace he)
    simp [isDiagnostic_of_mem_decodeEvents he] at hfree
  · intro hnil
    simpa [noDiagnostic, hnil] using h

/-- Settles O51: the deferred cycle and the fetch emit no diagnostic, and the decode step emits nothing else. -/
theorem noDiagnosticWithoutAFallback : Obligations.NoDiagnosticWithoutAFallback := by
  unfold Obligations.NoDiagnosticWithoutAFallback
  intro s t hfree h
  rcases step_cases h with ⟨hidis, rfl⟩ | ⟨hidis, rfl⟩
  · exact iff_of_true hfree (.inl hidis)
  · rw [noDiagnostic_decodeStep_iff (noDiagnostic_decodePoint hfree), decodeEvents_eq_nil_iff]
    simp [hidis]

end Sys2Proof.Machine

/-!
The cycle as a whole (40_cycle_engine.md R61 to R71): the step against the bit-level pseudocode, what it completes with, runs
of several cycles, straight-line code from a boundary, and the placing of one instruction.
-/

namespace Sys2Proof.Machine

/-! ## The kinds of step -/

/-- The fetch, with `FETCH_KEEP = 0x000` (40_cycle_engine.md R63). -/
theorem fetch_eq (s : State) :
    fetch s =
      { s with ppc := s.pc, mb := romRead s.pc s, pc := (s.pc + 1) &&& 0x07FF, trace := s.trace ++ [.fetch s.pc] } := by
  rw [fetch, slotAddress_eq]
  rfl

/-- Settles O9: the step lemmas for the deferred, the repeating and the fetching cycle, with the fetch written out. -/
theorem stepRunsTheDecodedInstruction : Obligations.StepRunsTheDecodedInstruction := by
  unfold Obligations.StepRunsTheDecodedInstruction
  refine fun s => ⟨step_of_idis, fun hidis hirep => ?_, fun hidis hirep => ?_⟩
  · rw [step_repeating hidis hirep, exec_eq_next]
  · rw [← fetch_eq, step_fetching hidis hirep, exec_eq_next]

/-- Settles O13: the registers of `decodeStep` leave these three alone. -/
theorem decodeStepNeverWritesPcPpcMb : Obligations.DecodeStepNeverWritesPcPpcMb := by
  unfold Obligations.DecodeStepNeverWritesPcPpcMb
  intro i s t h
  obtain rfl := eq_decodeStep_of_exec h
  exact ⟨decodeStep_pc i s, decodeStep_ppc i s, decodeStep_mb i s⟩

/-! ## The deferred cycle -/

/-- The multiplexer as its bit test (40_cycle_engine.md R65). -/
theorem mux_eq_bitMux (s : State) : mux s = bitMux s := by
  unfold mux bitMux wordSrc
  split <;> rfl

theorem deferredCycle_eq_bitDeferred (s : State) : deferredCycle s = bitDeferred s := by
  simp only [deferredCycle, deferredPc, bitDeferred, mux_eq_bitMux, Bool.and_eq_true]
  rfl

/-- Settles O10: the deferred cycle of the pseudocode, with its multiplexer and the full mask of the fall-through written
out. -/
theorem deferredCycleUpdatesPcOnly : Obligations.DeferredCycleUpdatesPcOnly := by
  unfold Obligations.DeferredCycleUpdatesPcOnly
  intro s hidis
  rw [step_of_idis hidis, deferredCycle_eq_bitDeferred, and_full_addr]
  rfl

/-! ## The condition evaluator -/

/-- The field in place, `MB & 0x3C`, holds the field of the word (30_encoding.md R46). -/
theorem field_in_place (b : Byte) : b &&& (0x3C : Byte) = (wordField b).setWidth 8 <<< 2 := by
  revert b
  decide

theorem field_in_place_eq_iff (b : Byte) (f : Nibble) : b &&& (0x3C : Byte) = f.setWidth 8 <<< 2 ↔ wordField b = f := by
  rw [field_in_place]
  generalize wordField b = g
  revert f g
  decide

/-- A code with no condition of its own is unimplemented (30_encoding.md R51). -/
theorem condOfField_of_unnamed {f : Nibble} (h : ¬(f = 4 ∨ f = 5 ∨ f = 6 ∨ f = 15)) :
    condOfField f = .unimplemented f := by
  revert f
  decide

theorem condEvents_condOfField (b : Byte) (s : State) :
    condEvents (condOfField (wordField b)) s.ppc = bitCondEvents (b &&& 0x3C) s := by
  have hnamed : b &&& 0x3C = 0x10 ∨ b &&& 0x3C = 0x14 ∨ b &&& 0x3C = 0x18 ∨ b &&& 0x3C = 0x3C ↔
      wordField b = 4 ∨ wordField b = 5 ∨ wordField b = 6 ∨ wordField b = 15 :=
    or_congr (field_in_place_eq_iff b 4) (or_congr (field_in_place_eq_iff b 5)
      (or_congr (field_in_place_eq_iff b 6) (field_in_place_eq_iff b 15)))
  rw [bitCondEvents]
  split
  · next h =>
    rcases hnamed.mp h with hf | hf | hf | hf
    all_goals rw [hf]; rfl
  · next h =>
    rw [condOfField_of_unnamed (mt hnamed.mpr h), field_in_place]
    rfl

/-- Settles O29: the evaluator of the pseudocode on the field in place gives the value and the events. -/
theorem conditionEvaluatorByField : Obligations.ConditionEvaluatorByField := by
  unfold Obligations.ConditionEvaluatorByField
  intro b s
  refine ⟨condValue_condOfField b s, ?_⟩
  rw [condEvent_eq, condEvents_condOfField, bitCondEvents]
  split_ifs
  · rw [List.append_nil]
  · rfl

/-! ## The decode half of the pseudocode -/

/-- The fields of the five groups of the function class: BAR, FLAG, store, counter, shift (30_encoding.md R50). -/
def groupFields : List Nibble := [9, 12, 13, 14, 15]

section BitDecode

variable {s : State}

/-- The branch class: the evaluator on the field in place stores the decision (41_branch.md R75 to R77). -/
theorem exec_branchClass (h6 : s.mb.getLsbD 6 = true) : exec (decodeWord s.mb) s = .next (bitDecode id s) := by
  rw [exec_eq_next, decodeWord_of_bit6 h6, bitDecode, ← condValue_condOfField, ← condEvents_condOfField]
  simp only [if_pos h6]
  split <;> rfl

/-- Class `10`: the jump and the load of SPAR (42_jump_spar.md R85, R86). -/
theorem exec_classTen (h6 : s.mb.getLsbD 6 = false) (h7 : s.mb.getLsbD 7 = true) :
    exec (decodeWord s.mb) s = .next (bitDecode id s) := by
  have hfield : ((s.mb &&& 0x3C) >>> 2).setWidth 4 = wordField s.mb := by
    generalize s.mb = b
    revert b
    decide
  simp only [decodeWord, bitDecode, h6, h7, hfield]
  cases s.mb.getLsbD 1 <;> rfl

/-- The five groups of the function class, each split by bits 1 and 0 (43_function.md R90 to R105). -/
theorem exec_functionGroup (h6 : s.mb.getLsbD 6 = false) (h7 : s.mb.getLsbD 7 = false)
    (hgroup : wordField s.mb ∈ groupFields) : exec (decodeWord s.mb) s = .next (bitDecode id s) := by
  have hfield := field_in_place s.mb
  simp only [groupFields, List.mem_cons, List.not_mem_nil, or_false] at hgroup
  rcases hgroup with hf | hf | hf | hf | hf
  all_goals
    rw [hf] at hfield
    simp only [decodeWord, decodeFunction, bitDecode, bitMux, h6, h7, hf, hfield]
    cases s.mb.getLsbD 1 <;> cases s.mb.getLsbD 0 <;> rfl

/-- Outside the groups a word of the function class is an `UNIMP` of one of three rows, all with one effect
(43_function.md R106). -/
theorem exec_outsideGroups (h6 : s.mb.getLsbD 6 = false) (h7 : s.mb.getLsbD 7 = false)
    (hgroup : wordField s.mb ∉ groupFields) : exec (decodeWord s.mb) s = .next (bitDecode id s) := by
  simp only [groupFields, List.mem_cons, List.not_mem_nil, or_false, not_or] at hgroup
  obtain ⟨h9, h12, h13, h14, h15⟩ := hgroup
  have h24 : s.mb &&& 0x3C ≠ 0x24 := mt (field_in_place_eq_iff s.mb 9).mp h9
  have h30 : s.mb &&& 0x3C ≠ 0x30 := mt (field_in_place_eq_iff s.mb 12).mp h12
  have h34 : s.mb &&& 0x3C ≠ 0x34 := mt (field_in_place_eq_iff s.mb 13).mp h13
  have h38 : s.mb &&& 0x3C ≠ 0x38 := mt (field_in_place_eq_iff s.mb 14).mp h14
  have h3C : s.mb &&& 0x3C ≠ 0x3C := mt (field_in_place_eq_iff s.mb 15).mp h15
  simp only [decodeWord, decodeFunction, bitDecode, h6, h7, h9, h12, h13, h14, h15, h24, h30, h34, h38, h3C]
  by_cases hmid : wordField s.mb = 8
  · simp only [hmid]
    rfl
  by_cases hhigh : wordField s.mb = 10 ∨ wordField s.mb = 11
  · simp only [hmid, hhigh]
    rfl
  · simp only [hmid, hhigh]
    rfl

/-- The decode step of the word in MB is the decode half of the pseudocode, class by class (30_encoding.md R45). -/
theorem exec_decodeWord_mb (s : State) : exec (decodeWord s.mb) s = .next (bitDecode id s) := by
  rcases Bool.eq_false_or_eq_true (s.mb.getLsbD 6) with h6 | h6
  · exact exec_branchClass h6
  rcases Bool.eq_false_or_eq_true (s.mb.getLsbD 7) with h7 | h7
  · exact exec_classTen h6 h7
  by_cases hgroup : wordField s.mb ∈ groupFields
  · exact exec_functionGroup h6 h7 hgroup
  · exact exec_outsideGroups h6 h7 hgroup

end BitDecode

theorem decodePoint_eq_bitFetch (s : State) : decodePoint s = bitFetch id s := by
  rw [decodePoint, fetch_eq]
  rfl

/-- Settles O11: the deferred cycle, the fetch half and the decode half agree one by one. -/
theorem stepIsTheBitLevelPseudocode : Obligations.StepIsTheBitLevelPseudocode := by
  unfold Obligations.StepIsTheBitLevelPseudocode
  intro s
  cases hidis : s.idis with
  | true => simp [step_of_idis hidis, deferredCycle_eq_bitDeferred, bitCycle, hidis]
  | false =>
    rw [step_of_not_idis hidis, ← exec_eq_next, exec_decodeWord_mb, decodePoint_eq_bitFetch]
    simp [bitCycle, hidis]

/-! ## Runs -/

/-- A run's first cycle. -/
theorem run_succ_of_step {s t : State} (h : step s = .next t) (n : Nat) : run (n + 1) s = run n t := by
  rw [run, h]

/-- To its decode point a cycle appends the event of its fetch, if it fetches (60_exceptions.md R112). -/
theorem exists_decodePoint_trace (s : State) : ∃ new, (decodePoint s).trace = s.trace ++ new := by
  rcases Bool.eq_false_or_eq_true s.irep with hirep | hirep
  · exact ⟨[], by rw [decodePoint_of_irep hirep, List.append_nil]⟩
  · exact ⟨[.fetch s.pc], by rw [decodePoint_of_not_irep hirep, fetch_trace]⟩

/-- Every step answers a next state, with its events after the old trace (40_cycle_engine.md R71). -/
theorem exists_step (s : State) : ∃ t new, step s = .next t ∧ t.trace = s.trace ++ new := by
  rcases Bool.eq_false_or_eq_true s.idis with hidis | hidis
  · exact ⟨_, [], step_of_idis hidis, by simp⟩
  · obtain ⟨new, hnew⟩ := exists_decodePoint_trace s
    exact ⟨_, _, step_of_not_idis hidis, by rw [decodeStep_trace, hnew, List.append_assoc]⟩

/-- Settles O12: a step answers one outcome, so the next state it answers is the only one. -/
theorem everyStepCompletes : Obligations.EveryStepCompletes := by
  unfold Obligations.EveryStepCompletes
  intro s
  obtain ⟨t, new, hstep, htrace⟩ := exists_step s
  refine ⟨t, new, hstep, htrace, fun u hu => ?_⟩
  exact Host.Outcome.next.inj (hu.symm.trans hstep)

/-- Settles O41, by induction on the cycles of the first run, each of which completes. -/
theorem runSplits : Obligations.RunSplits := by
  unfold Obligations.RunSplits
  intro a b s
  induction a generalizing s with
  | zero => exact ⟨s, rfl, by rw [Nat.zero_add]⟩
  | succ a ih =>
    obtain ⟨u, _, hstep, _⟩ := exists_step s
    obtain ⟨t, hfirst, hboth⟩ := ih u
    exact ⟨t, (run_succ_of_step hstep a).trans hfirst, by rw [Nat.succ_add, run_succ_of_step hstep, hboth]⟩

/-- A run's last cycle. -/
theorem run_succ_of_run {n : Nat} {s t : State} (h : run n s = .next t) : run (n + 1) s = step t := by
  obtain ⟨t', hrun, hsplit⟩ := runSplits n 1 s
  obtain rfl : t = t' := Host.Outcome.next.inj (h.symm.trans hrun)
  obtain ⟨u, _, hstep, _⟩ := exists_step t
  rw [hsplit, run_succ_of_step hstep, hstep, run]

/-! ## Straight-line code -/

/-- The slot address as arithmetic: decision D1 (log entry 1). -/
theorem slotAddress_toNat (a : Addr) : (slotAddress a).toNat = (a.toNat + 1) % 2048 := by
  have hmask : (0x07FF : Addr).toNat = 2 ^ 11 - 1 := rfl
  rw [slotAddress_eq, BitVec.toNat_and, hmask, Nat.and_two_pow_sub_one_eq_mod, BitVec.toNat_add]
  exact Nat.mod_mod_of_dvd (a.toNat + 1) (by decide : 2048 ∣ 4096)

/-- A one-byte instruction defers nothing and repeats nothing (30_encoding.md R48). -/
theorem atBoundary_decodeStep {i : Instr} {s : State} (hb : atBoundary s) (hslot : i.hasSlot = false) :
    atBoundary (decodeStep i s) := by
  obtain ⟨hidis, hirep⟩ := hb
  constructor
  · by_contra hset
    simp [hasSlot_of_idisAfter hidis (Bool.eq_true_of_not_eq_false hset)] at hslot
  · by_contra hset
    obtain ⟨c, pol, src, rfl⟩ := writer_of_irepAfter_ne (i := i) (s := s) (fun hkeep => hset (hkeep.trans hirep))
    cases hslot

/-- From a boundary, a one-byte instruction goes to the next address modulo 2048 and is at a boundary again. -/
theorem step_oneByte {s : State} (hb : atBoundary s) (hword : deferringWord (romRead s.pc s) = false) :
    ∃ t, step s = .next t ∧ atBoundary t ∧ t.pc.toNat = (s.pc.toNat + 1) % 2048 ∧ t.rom = s.rom := by
  obtain ⟨hidis, hirep⟩ := hb
  refine ⟨_, step_fetching hidis hirep, ?_, slotAddress_toNat s.pc, rfl⟩
  exact atBoundary_decodeStep (s := fetch s) ⟨hidis, hirep⟩ ((hasSlot_decodeWord _).trans hword)

/-- Settles O38, by induction on the number of instructions: the last one is fetched where the others left PC. -/
theorem straightLineFetchWrapsAt2048 : Obligations.StraightLineFetchWrapsAt2048 := by
  unfold Obligations.StraightLineFetchWrapsAt2048
  intro n s hb hn hwords
  induction n, hn using Nat.le_induction with
  | base =>
    obtain ⟨t, hstep, ht⟩ := step_oneByte hb (hwords 0 one_pos)
    exact ⟨t, run_succ_of_step hstep 0, ht⟩
  | succ n hn ih =>
    obtain ⟨t, hrun, hbt, hpc, hrom⟩ := ih fun k hk => hwords k (Nat.lt_succ_of_lt hk)
    have hword := hwords n n.lt_succ_self
    rw [if_neg (Nat.pos_iff_ne_zero.mp hn), ← hpc, ← hrom] at hword
    obtain ⟨u, hstep, hbu, hpcu, hromu⟩ := step_oneByte hbt hword
    refine ⟨u, (run_succ_of_run hrun).trans hstep, hbu, ?_, hromu.trans hrom⟩
    rw [hpcu, hpc, Nat.mod_add_mod, Nat.add_assoc]

/-! ## Placing an instruction -/

theorem slotAddress_toNat_ne (a : Addr) : (slotAddress a).toNat ≠ a.toNat := by
  rw [slotAddress_toNat]
  omega

theorem romRead_pc_placeAtFetch (b0 b1 : Byte) (s : State) : romRead s.pc (placeAtFetch b0 b1 s) = b0 := by
  rw [romRead, placeAtFetch_rom, Memory.read_write, if_neg (slotAddress_toNat_ne s.pc).symm, Memory.read_write, if_pos rfl]

theorem romRead_slotAddress_placeAtFetch (b0 b1 : Byte) (s : State) :
    romRead (slotAddress s.pc) (placeAtFetch b0 b1 s) = b1 := by
  rw [romRead, placeAtFetch_rom, Memory.read_write, if_pos rfl]

/-- Of two bytes the decoder reads the instruction of the first, whether it takes the second as a slot byte or not. -/
theorem decodeTableWord_eq (nbits w : Nat) :
    decodeTableWord nbits w = some (decodeWord (BitVec.ofNat 8 (w % 2 ^ nbits))) := by
  unfold decodeTableWord tableBytes
  cases hslot : (decodeWord (BitVec.ofNat 8 (w % 2 ^ nbits))).hasSlot with
  | false => simp only [decodeBytes_of_not_hasSlot hslot]
  | true => simp only [decodeBytes_of_hasSlot hslot]

/-- Settles O57: the two bytes are placed at PC and at the slot address, which differ, and the machine is at a boundary. -/
theorem placedWordRunsNext : Obligations.PlacedWordRunsNext := by
  unfold Obligations.PlacedWordRunsNext
  intro s nbits w hwf
  have hmb := romRead_pc_placeAtFetch (BitVec.ofNat 8 (w % 2 ^ nbits)) (BitVec.ofNat 8 (w % 2 ^ nbits / 256)) s
  refine ⟨_, decodeTableWord_eq nbits w, rfl, ?_, hmb, romRead_slotAddress_placeAtFetch _ _ s,
    Memory.wf_write _ _ (Memory.wf_write _ _ hwf)⟩
  have hstep := cycle_atBoundary (s := s.withFetchWord nbits w) rfl rfl
  exact hstep.trans (congrArg (fun b => exec (decodeWord b) (fetch (s.withFetchWord nbits w))) hmb)

end Sys2Proof.Machine

/-!
The branch class (41_branch.md): `BR` and the decode step of `WB`, the target of a taken branch, then the laws of `WB`. A `WB`
runs to its end by one fact: after a decode that does not end it, the next decode leaves `wbAfter` one further on.
-/

namespace Sys2Proof.Machine

/-! ## The deferred cycle of a branch -/

theorem bit6_of_wb_bits {b : Byte} (h : b &&& 0xC0 = 0xC0) : b.getLsbD 6 = true := by
  revert b
  decide

/-- A word that decodes to a `BR` has its source in bit 0 and bit 6 set (30_encoding.md R46). -/
theorem bits_of_decodeWord_br {b : Byte} {c : CondCode} {pol : Bool} {src : Src} (h : decodeWord b = .br c pol src) :
    b.getLsbD 6 = true ∧ wordSrc b = src := by
  have hrow := covers_row_decodeWord b
  rw [h] at hrow
  have h6 : b.getLsbD 6 = true := by
    have hbits : b &&& 0xC0 = 0x40 := eq_of_beq hrow
    clear h hrow
    revert b
    decide
  rw [decodeWord_of_bit6 h6] at h
  split at h
  · cases h
  · cases h
    exact ⟨h6, rfl⟩

/-- A word of the branch class is no jump, so BRC alone decides its deferred cycle (40_cycle_engine.md R62). -/
theorem deferredPc_of_bit6 {s : State} (h6 : s.mb.getLsbD 6 = true) :
    deferredPc s = if s.brc = true then branchTarget s.pc (mux s) else s.pc + 1 := by
  have hjump : s.mb &&& 0xC2 ≠ 0x82 := by
    generalize s.mb = b at h6
    revert b
    decide
  rw [deferredPc, if_neg hjump, h6, Bool.true_and]
  rfl

/-- The deferred cycle of a branch (41_branch.md R76, R77). -/
theorem step_deferredBranch {s : State} (hidis : s.idis = true) (h6 : s.mb.getLsbD 6 = true) :
    step s = .next
      { s with pc := if s.brc = true then branchTarget s.pc (mux s) else s.pc + 1, idis := false, irep := false } := by
  rw [step_of_idis hidis, deferredCycle, deferredPc_of_bit6 h6]

/-- A run whose last cycle is the deferred cycle of a branch. -/
theorem run_deferredBranch {n : Nat} {s t : State} (hrun : run n s = .next t) (hidis : t.idis = true)
    (h6 : t.mb.getLsbD 6 = true) :
    run (n + 1) s = .next
      { t with pc := if t.brc = true then branchTarget t.pc (mux t) else t.pc + 1, idis := false, irep := false } :=
  (run_succ_of_run hrun).trans (step_deferredBranch hidis h6)

theorem run_one (s : State) : run 1 s = step s :=
  run_succ_of_run rfl

/-! ## The target -/

/-- The mask of the page keeps bits 11:8 in their place. -/
theorem page_in_place (x : Addr) : x &&& (0x0F00 : Addr) = (x.extractLsb' 8 4).setWidth 12 <<< 8 := by
  ext i hi
  interval_cases i <;> simp

/-- A taken branch keeps the page of the address after the slot byte (41_branch.md R78). -/
theorem branchTarget_eq_append (slot : Addr) (low : Byte) :
    branchTarget slot low = (slot + 1).extractLsb' 8 4 ++ low := by
  rw [branchTarget, page_in_place, nibble_append_byte]

/-- Below the last two words of the lower bank the address after the slot byte is two further on. -/
theorem slotAddress_add_one {a : Addr} (h : a ≤ 0x7FD) : slotAddress a + 1 = a + 2 := by
  have hle : a.toNat ≤ 0x7FD := h
  apply BitVec.eq_of_toNat_eq
  rw [BitVec.toNat_add, BitVec.toNat_add, slotAddress_toNat, show (1 : Addr).toNat = 1 from rfl,
    show (2 : Addr).toNat = 2 from rfl]
  omega

/-- Settles O32: the target as a page beside a byte, and the pages by the address of the control word. -/
theorem takenBranchTarget : Obligations.TakenBranchTarget := by
  unfold Obligations.TakenBranchTarget
  refine ⟨fun s hidis h6 hbrc => ⟨_, step_deferredBranch hidis h6, ?_⟩, fun a ha => ?_, by decide, by decide, by decide⟩
  · change (if s.brc = true then _ else _) = _
    rw [if_pos hbrc, branchTarget_eq_append, mux_eq_bitMux, bitMux]
  · rw [slotAddress_add_one ha]

/-! ## `BR` -/

theorem decodeStep_br (c : CondCode) (pol : Bool) (src : Src) (s : State) :
    decodeStep (.br c pol src) s = { condEvent c s with brc := condValue c s == pol, idis := true } := by
  rw [condEvent_eq]
  rfl

theorem condValue_fetch (c : CondCode) (s : State) : condValue c (fetch s) = condValue c s :=
  condValue_congr rfl rfl rfl rfl c

/-- Settles O30: the decode step of `BR` after the fetch, then the deferred cycle, whose source is the word's bit 0. -/
theorem brResult : Obligations.BrResult := by
  unfold Obligations.BrResult
  refine ⟨decodeWord_brWord, fun c pol src s => ?_, fun c pol src s hb hword => ?_⟩
  · rw [exec_eq_next, decodeStep_br]
  obtain ⟨hidis, hirep⟩ := hb
  obtain ⟨h6, hsrc⟩ := bits_of_decodeWord_br hword
  have hstep := step_fetching hidis hirep
  rw [hword, decodeStep_br, condValue_fetch] at hstep
  refine ⟨hstep, ?_⟩
  rw [condEvent_eq] at hstep ⊢
  rw [run_deferredBranch (run_succ_of_step hstep 0) rfl h6, and_full_addr, ← hsrc]
  simp only [beq_iff_eq]
  rfl

/-! ## The decode step of `WB` -/

theorem decodeStep_wb (c : CondCode) (pol : Bool) (src : Src) (s : State) :
    decodeStep (.wb c pol src) s =
      { condEvent c s with
        brc := condValue c s == pol
        idis := decide (s.cntr = 255) || (condValue c s == pol)
        irep := decide (s.cntr ≠ 255) && !(condValue c s == pol)
        cntr := s.cntr + 1 } := by
  rw [condEvent_eq, decide_not]
  rfl

/-- Settles O31: the registers of the decode step, of which IREP selects the repeat cycle and IDIS the deferred one. -/
theorem wbDecodeStep : Obligations.WbDecodeStep := by
  unfold Obligations.WbDecodeStep
  refine ⟨decodeWord_wbWord, fun c pol src s => ⟨_, exec_eq_next _ _, ?_, idisAfter_wb c pol src s, ?_, ?_⟩⟩
  · rw [decodeStep_wb, and_full_byte]
  · intro hirep
    have hidis : (decodeStep (.wb c pol src) s).idis = false :=
      (idisAfter_wb c pol src s).trans (congrArg Bool.not hirep)
    rw [step_repeating hidis hirep, exec_eq_next]
  · intro h6 hidis
    rw [step_deferredBranch hidis h6, mux_eq_bitMux, and_full_addr]
    rfl

/-! ## The laws of `WB` -/

/-- Decode number `k` finds the counter at terminal count. -/
def wbCounted (d : State) (k : Nat) : Bool := d.cntr + BitVec.ofNat 8 k == 255

/-- The state after decode number `k` of the `WB` in MB, if no decode before it ended the loop (41_branch.md R77). -/
def wbAfter (d : State) (k : Nat) : State :=
  { d with
    brc := wbMatch d k
    idis := wbCounted d k || wbMatch d k
    irep := !wbCounted d k && !wbMatch d k
    cntr := d.cntr + BitVec.ofNat 8 (k + 1)
    trace := d.trace ++ (List.replicate (k + 1) (bitCondEvents (d.mb &&& 0x3C) d)).flatten }

/-- Decode number `k` is the last of the `WB` in MB: at the first match or at terminal count (41_branch.md R79 (a)). -/
def WbLastDecode (d : State) (k : Nat) : Prop :=
  d.cntr.toNat + k ≤ 255 ∧ (∀ j, j < k → wbMatch d j = false) ∧ (wbMatch d k = true ∨ d.cntr.toNat + k = 255)

theorem wbMatch_zero (d : State) : wbMatch d 0 = (bitCond (d.mb &&& 0x3C) d == d.mb.getLsbD 1) := by
  simp [wbMatch]

theorem wbCounted_zero (d : State) : wbCounted d 0 = (d.cntr == 255) := by
  simp [wbCounted]

theorem wbMatch_wbAfter (d : State) (k : Nat) : wbMatch (wbAfter d k) 0 = wbMatch d (k + 1) := by
  rw [wbMatch_zero]
  rfl

theorem wbCounted_wbAfter (d : State) (k : Nat) : wbCounted (wbAfter d k) 0 = wbCounted d (k + 1) := by
  simp [wbCounted, wbAfter]

/-- Below 256 the counter does not wrap, so it is at terminal count where the sum is 255. -/
theorem wbCounted_iff {d : State} {k : Nat} (h : d.cntr.toNat + k ≤ 255) :
    wbCounted d k = true ↔ d.cntr.toNat + k = 255 := by
  rw [wbCounted, beq_iff_eq, ← BitVec.toNat_inj, BitVec.toNat_add, BitVec.toNat_ofNat, Nat.add_mod_mod,
    Nat.mod_eq_of_lt (by omega)]
  rfl

/-- The first decode. -/
theorem decodeStep_eq_wbAfter {d : State} (hwb : d.mb &&& 0xC0 = 0xC0) :
    decodeStep (decodeWord d.mb) d = wbAfter d 0 := by
  rw [decodeWord_of_wb_bits hwb, decodeStep_wb, condEvent_eq, condValue_condOfField, condEvents_condOfField,
    ← wbMatch_zero]
  simp [wbAfter, wbCounted_zero, beq_eq_decide]

/-- One decode further: the decode reads only what the decodes before it left alone, and the counter. -/
theorem wbAfter_wbAfter (d : State) (k : Nat) : wbAfter (wbAfter d k) 0 = wbAfter d (k + 1) := by
  have hcntr : d.cntr + BitVec.ofNat 8 (k + 1) + BitVec.ofNat 8 (0 + 1) = d.cntr + BitVec.ofNat 8 (k + 1 + 1) := by
    rw [BitVec.add_assoc, BitVec.ofNat_add (k + 1) 1]
  have htrace (es : List Event) : d.trace ++ (List.replicate (k + 1) es).flatten ++ (List.replicate (0 + 1) es).flatten =
      d.trace ++ (List.replicate (k + 1 + 1) es).flatten := by
    rw [List.append_assoc, ← List.flatten_append, List.replicate_append_replicate]
  rw [wbAfter, wbMatch_wbAfter, wbCounted_wbAfter, wbAfter.eq_def d (k + 1), ← hcntr, ← htrace]
  rfl

/-- A decode that does not end the `WB` repeats it. -/
theorem step_wbAfter {d : State} {k : Nat} (hwb : d.mb &&& 0xC0 = 0xC0) (hcounted : wbCounted d k = false)
    (hmatch : wbMatch d k = false) : step (wbAfter d k) = .next (wbAfter d (k + 1)) := by
  have hidis : (wbAfter d k).idis = false := by simp [wbAfter, hcounted, hmatch]
  have hirep : (wbAfter d k).irep = true := by simp [wbAfter, hcounted, hmatch]
  rw [step_repeating hidis hirep, decodeStep_eq_wbAfter (d := wbAfter d k) hwb, wbAfter_wbAfter]

/-- As long as no decode before number `k` ends the `WB`, `k + 1` cycles are its decodes 0 to `k`. -/
theorem run_wbDecodes {s d : State} {k : Nat} (hidis : s.idis = false) (hd : d = decodePoint s)
    (hwb : d.mb &&& 0xC0 = 0xC0) (hk : d.cntr.toNat + k ≤ 255) (hmatch : ∀ j, j < k → wbMatch d j = false) :
    run (k + 1) s = .next (wbAfter d k) := by
  induction k with
  | zero =>
    have hstep := step_of_not_idis hidis
    rw [← hd, decodeStep_eq_wbAfter hwb] at hstep
    exact run_succ_of_step hstep 0
  | succ k ih =>
    have hcounted : wbCounted d k = false := by
      rw [Bool.eq_false_iff, ne_eq, wbCounted_iff (by omega)]
      omega
    rw [run_succ_of_run (ih (by omega) fun j hj => hmatch j (by omega))]
    exact step_wbAfter hwb hcounted (hmatch k k.lt_succ_self)

/-- The state after the last decode: the deferred cycle is pending. -/
theorem wbAfter_of_last {d : State} {k : Nat} (h : WbLastDecode d k) :
    wbAfter d k = { wbAfter d k with idis := true, irep := false } := by
  obtain ⟨hk, -, hend⟩ := h
  rw [← wbCounted_iff hk] at hend
  rcases hend with hend | hend <;> simp [wbAfter, hend]

/-- The decodes of a `WB` up to its last (41_branch.md R79 (a) to (d)). -/
theorem run_wbLastDecode {s d : State} {k : Nat} (hidis : s.idis = false) (hd : d = decodePoint s)
    (hwb : d.mb &&& 0xC0 = 0xC0) (h : WbLastDecode d k) :
    run (k + 1) s = .next
      { d with
        brc := wbMatch d k, idis := true, irep := false, cntr := d.cntr + BitVec.ofNat 8 (k + 1)
        trace := d.trace ++ (List.replicate (k + 1) (bitCondEvents (d.mb &&& 0x3C) d)).flatten } := by
  have hlast := wbAfter_of_last h
  obtain ⟨hk, hbefore, -⟩ := h
  rw [run_wbDecodes hidis hd hwb hk hbefore, hlast]
  rfl

/-- A `WB` to its end (41_branch.md R79 (a) to (d)). -/
theorem run_wb {s d : State} {k : Nat} (hidis : s.idis = false) (hd : d = decodePoint s)
    (hwb : d.mb &&& 0xC0 = 0xC0) (h : WbLastDecode d k) :
    run (k + 2) s = .next
      { d with
        brc := wbMatch d k, idis := false, irep := false, cntr := d.cntr + BitVec.ofNat 8 (k + 1)
        trace := d.trace ++ (List.replicate (k + 1) (bitCondEvents (d.mb &&& 0x3C) d)).flatten
        pc := if wbMatch d k then ((d.pc + 1) &&& 0x0F00) ||| (bitMux d).setWidth 12 else d.pc + 1 } := by
  rw [run_deferredBranch (run_wbLastDecode hidis hd hwb h) rfl (bit6_of_wb_bits hwb), mux_eq_bitMux]
  rfl

/-- Every `WB` has a last decode: the counter reaches terminal count if no match comes before. -/
theorem exists_wbLastDecode (d : State) : ∃ k, WbLastDecode d k := by
  have hex : ∃ k, wbMatch d k = true ∨ d.cntr.toNat + k = 255 := ⟨255 - d.cntr.toNat, .inr (by omega)⟩
  have hle : Nat.find hex ≤ 255 - d.cntr.toNat := Nat.find_min' hex (.inr (by omega))
  refine ⟨Nat.find hex, by omega, fun j hj => ?_, Nat.find_spec hex⟩
  exact Bool.eq_false_iff.mpr fun hmatch => Nat.find_min hex hj (.inl hmatch)

/-- Settles O33: the run to the last decode and its deferred cycle. -/
theorem wbRunsToItsEnd : Obligations.WbRunsToItsEnd := by
  unfold Obligations.WbRunsToItsEnd
  intro s d hidis hd hwb
  obtain ⟨k, h⟩ := exists_wbLastDecode d
  have hlast := run_wbLastDecode hidis hd hwb h
  have hrun := run_wb hidis hd hwb h
  obtain ⟨hk, hbefore, hend⟩ := h
  exact ⟨k, hk, hbefore, hend, hlast, hrun⟩

/-! ## A condition other than the terminal count -/

/-- Only the terminal count sees the counter (40_cycle_engine.md R66). -/
theorem bitCond_setCntr {f : Byte} (hf : f ≠ 0x14) (s : State) (v : Byte) :
    bitCond f { s with cntr := v } = bitCond f s := by
  simp only [bitCond, if_neg hf]

/-- A `WB` with no match before terminal count ends there, at decode number `255 - CNTR`. -/
theorem wbLastDecode_of_no_match {d : State} (h : ∀ j, d.cntr.toNat + j < 255 → wbMatch d j = false) :
    WbLastDecode d (255 - d.cntr.toNat) :=
  ⟨by omega, fun j hj => h j (by omega), .inr (by omega)⟩

/-- The first decode is the last when it matches or finds the counter at terminal count. -/
theorem wbLastDecode_zero {d : State} (h : wbMatch d 0 = true ∨ d.cntr = 255) : WbLastDecode d 0 :=
  ⟨Nat.le_of_lt_succ d.cntr.isLt, fun _ hj => absurd hj (Nat.not_lt_zero _), h.imp_right (congrArg BitVec.toNat)⟩

/-- The counter at 256 has wrapped (10_state.md R17). -/
theorem cntr_wraps (c : Byte) : c + BitVec.ofNat 8 (255 - c.toNat + 1) = 0 := by
  apply BitVec.eq_of_toNat_eq
  rw [BitVec.toNat_add, BitVec.toNat_ofNat, Nat.add_mod_mod, show c.toNat + (255 - c.toNat + 1) = 256 by omega]
  rfl

/-- Settles O34: no decode matches, so the last one is at terminal count. -/
theorem wbWithoutMatchIsADelay : Obligations.WbWithoutMatchIsADelay := by
  unfold Obligations.WbWithoutMatchIsADelay
  intro s d hidis hd hwb hfield hcond
  have hmatch : ∀ k, wbMatch d k = false := fun k => by
    rw [wbMatch, bitCond_setCntr hfield]
    exact beq_eq_false_iff_ne.mpr hcond
  have hrun := run_wb hidis hd hwb (wbLastDecode_of_no_match fun j _ => hmatch j)
  rw [hmatch, cntr_wraps, show 255 - d.cntr.toNat + 2 = 257 - d.cntr.toNat by omega] at hrun
  exact ⟨_, hrun, rfl, rfl, ⟨rfl, rfl⟩, rfl⟩

/-! ## The terminal count -/

section TerminalCount

variable {d : State}

/-- The bits of `WB TC`, its polarity and source left open (30_encoding.md R51). -/
theorem bits_of_wbTc {b : Byte} (h : b &&& 0xFC = 0xD4) : b &&& 0xC0 = 0xC0 ∧ b &&& 0x3C = 0x14 := by
  revert b
  decide

/-- On the terminal count a decode matches when the counter is there, for `pol = 1`, or is not, for `pol = 0`. -/
theorem wbMatch_tc (hword : d.mb &&& 0xFC = 0xD4) (k : Nat) : wbMatch d k = (wbCounted d k == d.mb.getLsbD 1) := by
  obtain ⟨-, hfield⟩ := bits_of_wbTc hword
  rw [wbMatch, hfield]
  rfl

/-- The condition emits no event (60_exceptions.md R113). -/
theorem bitCondEvents_tc (hword : d.mb &&& 0xFC = 0xD4) : bitCondEvents (d.mb &&& 0x3C) d = [] := by
  obtain ⟨-, hfield⟩ := bits_of_wbTc hword
  rw [hfield]
  rfl

/-- `WB TC` from its first decode past its last to its end. -/
theorem wbTc_ends {s : State} {k : Nat} (hidis : s.idis = false) (hd : d = decodePoint s)
    (hword : d.mb &&& 0xFC = 0xD4) (h : WbLastDecode d k) :
    ∃ t u, run (k + 1) s = .next t ∧
      t = { d with brc := wbMatch d k, idis := true, irep := false, cntr := d.cntr + BitVec.ofNat 8 (k + 1) } ∧
      step t = .next u ∧ u =
        { d with
          brc := wbMatch d k, idis := false, irep := false, cntr := d.cntr + BitVec.ofNat 8 (k + 1)
          pc := if wbMatch d k then ((d.pc + 1) &&& 0x0F00) ||| (bitMux d).setWidth 12 else d.pc + 1 } := by
  obtain ⟨hwb, -⟩ := bits_of_wbTc hword
  have hlast := run_wbLastDecode hidis hd hwb h
  have hrun := run_wb hidis hd hwb h
  rw [run_succ_of_run hlast] at hrun
  rw [bitCondEvents_tc hword, List.flatten_replicate_nil, List.append_nil] at hlast hrun
  exact ⟨_, _, hlast, rfl, hrun, rfl⟩

end TerminalCount

/-- Settles O35: with `pol = 1` no decode before terminal count matches and the one there does; with `pol = 0` the first
decode is the last, by its match or by the count. -/
theorem wbOnTerminalCount : Obligations.WbOnTerminalCount := by
  unfold Obligations.WbOnTerminalCount
  intro s d hidis hd hword
  have hmatch := wbMatch_tc hword
  refine ⟨fun hpol => ?_, fun hpol hcntr => ?_, fun hpol hcntr => ?_⟩
  · have hbefore (j : Nat) (hj : d.cntr.toNat + j < 255) : wbMatch d j = false := by
      rw [hmatch, hpol, beq_true, Bool.eq_false_iff, ne_eq, wbCounted_iff hj.le]
      exact hj.ne
    have hlast : wbMatch d (255 - d.cntr.toNat) = true := by
      rw [hmatch, hpol, beq_true, wbCounted_iff (by omega)]
      omega
    have hends := wbTc_ends hidis hd hword (wbLastDecode_of_no_match hbefore)
    rwa [hlast, cntr_wraps, show 255 - d.cntr.toNat + 1 = 256 - d.cntr.toNat by omega] at hends
  · have hfirst : wbMatch d 0 = true := by
      rw [hmatch, hpol, wbCounted_zero, beq_false_of_ne hcntr]
      rfl
    have hends := wbTc_ends hidis hd hword (wbLastDecode_zero (.inl hfirst))
    rwa [hfirst, run_one] at hends
  · have hfirst : wbMatch d 0 = false := by
      rw [hmatch, hpol, wbCounted_zero, hcntr]
      rfl
    have hends := wbTc_ends hidis hd hword (wbLastDecode_zero (.inr hcntr))
    rwa [hfirst, run_one, hcntr] at hends

end Sys2Proof.Machine

/-!
Class `10` (42_jump_spar.md): `JMP`, whose deferred cycle reads page and source from the word in MB, and `LSPA`.
-/

namespace Sys2Proof.Machine

/-! ## `JMP` -/

theorem decodeWord_of_jmp_bits {b : Byte} (h : b &&& 0xC2 = 0x82) : decodeWord b = .jmp (wordField b) (wordSrc b) := by
  revert b
  decide

/-- A word that decodes to a `JMP` has the bits of its row, its page in bits 5:2 and its source in bit 0
(30_encoding.md R46). -/
theorem bits_of_decodeWord_jmp {b : Byte} {page : Nibble} {src : Src} (h : decodeWord b = .jmp page src) :
    b &&& 0xC2 = 0x82 ∧ wordField b = page ∧ wordSrc b = src := by
  have hrow := covers_row_decodeWord b
  rw [h] at hrow
  have hbits : b &&& 0xC2 = 0x82 := eq_of_beq hrow
  exact ⟨hbits, Instr.jmp.inj ((decodeWord_of_jmp_bits hbits).symm.trans h)⟩

/-- The decode step of a `JMP` only defers. -/
theorem exec_jmp (page : Nibble) (src : Src) (s : State) : exec (.jmp page src) s = .next { s with idis := true } := rfl

/-- The deferred cycle of a jump goes to the word's page and the multiplexed byte (40_cycle_engine.md R62). -/
theorem deferredPc_of_jmp {s : State} {page : Nibble} {src : Src} (h : decodeWord s.mb = .jmp page src) :
    deferredPc s = page ++ muxOf src s := by
  obtain ⟨hbits, rfl, rfl⟩ := bits_of_decodeWord_jmp h
  rw [deferredPc, if_pos hbits, jumpTarget_eq_append, mux]

/-- The deferred cycle of a jump replaces PC whole (42_jump_spar.md R85). -/
theorem step_deferredJmp {s : State} {page : Nibble} {src : Src} (hidis : s.idis = true)
    (h : decodeWord s.mb = .jmp page src) :
    step s = .next { s with pc := page ++ muxOf src s, idis := false, irep := false } := by
  rw [step_of_idis hidis, deferredCycle, deferredPc_of_jmp h]

/-- Settles O36: the decode step after the fetch, then the deferred cycle with the fetched word still in MB. -/
theorem jmpResult : Obligations.JmpResult := by
  unfold Obligations.JmpResult
  refine ⟨decodeWord_jmpWord, exec_jmp, fun page src s hb hword => ?_⟩
  obtain ⟨hidis, hirep⟩ := hb
  have hdecode : step s = .next { fetch s with idis := true } := by
    rw [step, cycle_atBoundary hidis hirep, hword, exec_jmp]
  have hdeferred := step_deferredJmp (s := { fetch s with idis := true }) rfl hword
  have hsource : muxOf src { fetch s with idis := true } = muxOf src (fetch s) := muxOf_congr rfl rfl rfl rfl src
  refine ⟨hdecode, ?_⟩
  rw [run_succ_of_step hdecode, run_one, hdeferred, hsource]

/-! ## `LSPA` -/

/-- The word of an `LSPA` decodes to its field, whatever its bit 0 (30_encoding.md R47, R52). -/
theorem decodeWord_lspaWord (n : Nibble) (x : BitVec 1) : decodeWord (0b10#2 ++ n ++ 0#1 ++ x) = .lspa n := by
  revert n x
  decide

/-- Settles O37: the word by its field, the length and the decode step by the definitions. -/
theorem lspaResult : Obligations.LspaResult := by
  unfold Obligations.LspaResult
  exact ⟨decodeWord_lspaWord, fun _ => rfl, fun _ _ => rfl⟩

end Sys2Proof.Machine

/-!
The function class (43_function.md), group by group: its words, its decode steps and, for the two deferring counter words,
the deferred cycle; then the codes outside the groups and the arithmetic laws.
-/

namespace Sys2Proof.Machine

/-! ## The BAR group -/

/-- Settles O19: the four words by their bits 1:0, the values by the definitions, the full mask of the increment dropped. -/
theorem barGroupResults : Obligations.BarGroupResults := by
  unfold Obligations.BarGroupResults
  refine ⟨by decide, by decide, by decide, by decide, fun s => ⟨rfl, rfl, ?_⟩⟩
  rw [and_full_addr]
  rfl

/-! ## The FLAG group -/

theorem nextFlag_clear (flag : Bool) : nextFlag false true flag = false := rfl

/-- The two terms of the equation cover both old values (43_function.md R95). -/
theorem nextFlag_set (flag : Bool) : nextFlag true false flag = true := by
  cases flag <;> rfl

theorem nextFlag_toggle (flag : Bool) : nextFlag true true flag = !flag := rfl

/-- Settles O20: the equation of FLAG at each of the four values of bits 1:0. -/
theorem flagGroupResults : Obligations.FlagGroupResults := by
  unfold Obligations.FlagGroupResults
  refine ⟨by decide, by decide, by decide, by decide, fun s => ⟨?_, ?_, ?_, ?_⟩⟩
  · rw [exec, execFlgh, nextFlag_hold]
  · rw [exec, execFlgc, nextFlag_clear]
  · rw [exec, execFlgs, nextFlag_set]
  · rw [exec, execFlgt, nextFlag_toggle]

/-! ## The scratchpad store -/

/-- The word of `STSR`, whatever its bits 1:0 (30_encoding.md R52). -/
theorem decodeWord_stsrWord (low : BitVec 2) : decodeWord (0b001101#6 ++ low) = .stsr := by
  revert low
  decide

/-- Settles O21: `STSR` is the one scratchpad write. -/
theorem stsrResult : Obligations.StsrResult := by
  unfold Obligations.StsrResult
  exact ⟨decodeWord_stsrWord, fun s => ⟨spWrite s.spar s.sr s, rfl, fun j => spRead_spWrite s.spar j s.sr s, rfl⟩⟩

/-! ## The counter group -/

theorem exec_ldci (s : State) : exec .ldci s = .next { s with cntr := romRead s.pc s, idis := true } := rfl

theorem exec_ldcs (s : State) : exec .ldcs s = .next { s with cntr := spRead s.spar s, idis := false } := rfl

theorem exec_inck (s : State) : exec .inck s = .next { s with cntr := s.cntr + 1, idis := true } := rfl

theorem exec_inc (s : State) : exec .inc s = .next { s with cntr := s.cntr + 1, idis := false } := rfl

/-- Settles O23: the load and the increment, the full mask of the increment dropped. -/
theorem ldcsAndIncResults : Obligations.LdcsAndIncResults := by
  unfold Obligations.LdcsAndIncResults
  refine ⟨by decide, by decide, rfl, rfl, fun s => ⟨exec_ldcs s, ?_⟩⟩
  rw [and_full_byte, exec_inc]

/-- A deferring word of the counter group is neither a jump nor a branch, so its deferred cycle falls through
(40_cycle_engine.md R62, third case). -/
theorem deferredPc_of_counter_bits {s : State} (h : s.mb &&& 0xFD = 0x38) : deferredPc s = s.pc + 1 := by
  have hclass : s.mb &&& 0xC2 ≠ 0x82 ∧ s.mb.getLsbD 6 = false := by
    generalize s.mb = b at h
    revert b
    decide
  obtain ⟨hjump, h6⟩ := hclass
  rw [deferredPc, if_neg hjump, h6, Bool.false_and, if_neg Bool.false_ne_true, fallThrough]

/-- The deferred cycle of `LDCI` and `INCK` steps over the slot byte (43_function.md R98, R100). -/
theorem step_deferredCounter {s : State} (hidis : s.idis = true) (h : s.mb &&& 0xFD = 0x38) :
    step s = .next { s with pc := s.pc + 1, idis := false, irep := false } := by
  rw [step_of_idis hidis, deferredCycle, deferredPc_of_counter_bits h]

/-- A decode cycle of `LDCI` or `INCK` and its deferred cycle. -/
theorem run_two_counter {s t : State} (hdecode : step s = .next t) (hidis : t.idis = true) (h : t.mb &&& 0xFD = 0x38) :
    run 2 s = .next { t with pc := (t.pc + 1) &&& 0x0FFF, idis := false, irep := false } := by
  rw [run_succ_of_step hdecode, run_one, step_deferredCounter hidis h, and_full_addr]

/-- From a boundary the first cycle is the decode step of the fetched word (40_cycle_engine.md R61, R63). -/
theorem step_atBoundary {s : State} (hb : atBoundary s) : step s = exec (decodeWord (romRead s.pc s)) (fetch s) := by
  obtain ⟨hidis, hirep⟩ := hb
  exact cycle_atBoundary hidis hirep

/-- Settles O22: the decode step after the fetch, then the deferred cycle with the fetched word still in MB. -/
theorem ldciResult : Obligations.LdciResult := by
  unfold Obligations.LdciResult
  have hword : decodeWord 0x38 = .ldci := by decide
  refine ⟨hword, rfl, exec_ldci, fun s hb hfetched => ?_⟩
  have hdecode : step s = .next { fetch s with cntr := romRead (fetch s).pc s, idis := true } := by
    rw [step_atBoundary hb, hfetched, hword, exec_ldci, romRead_congr (fetch_rom s)]
  exact ⟨hdecode, run_two_counter hdecode rfl (by simp [hfetched])⟩

/-- Settles O24: the decode step after the fetch, then the deferred cycle with the fetched word still in MB. -/
theorem inckResult : Obligations.InckResult := by
  unfold Obligations.InckResult
  have hword : decodeWord 0x3A = .inck := by decide
  refine ⟨hword, rfl, fun s => by rw [and_full_byte, exec_inck], fun s hb hfetched => ?_⟩
  have hdecode : step s = .next { fetch s with cntr := s.cntr + 1, idis := true } := by
    rw [step_atBoundary hb, hfetched, hword, exec_inck, fetch_cntr]
  exact ⟨hdecode, run_two_counter hdecode rfl (by simp [hfetched])⟩

/-! ## The shift-register group -/

theorem shiftIn_false (s : State) : shiftIn false s = { s with sr := s.sr <<< 1 } := by
  simp [shiftIn]

theorem shiftIn_true (s : State) : shiftIn true s = { s with sr := (s.sr <<< 1) ||| 1 } := rfl

/-- Settles O25: three shifts by their serial bit, of which that of `SHLD` is the constant 0, and the load. -/
theorem shiftGroupResults : Obligations.ShiftGroupResults := by
  unfold Obligations.ShiftGroupResults
  refine ⟨by decide, by decide, by decide, by decide, fun s => ⟨?_, rfl, ?_, ?_⟩⟩
  · rw [exec, execShl0, shiftIn_false]
  · rw [exec, execShl1, shiftIn_true]
  · rw [exec, execShld, Config.sepData, shiftIn_false]

/-! ## The unimplemented function codes -/

/-- The function class is the words with bits 7:6 clear (30_encoding.md R45). -/
theorem decodeWord_of_functionClass {b : Byte} (h : b &&& 0xC0 = 0) : decodeWord b = decodeFunction b := by
  revert b
  decide

/-- A function code outside the five groups is in one of the three rows of `UNIMP` (30_encoding.md R50). -/
theorem decodeFunction_outsideGroups {b : Byte} (h : wordField b ∉ groupFields) :
    (∃ low, decodeFunction b = .unimpLow low) ∨ (∃ low, decodeFunction b = .unimpMid low) ∨
      ∃ low, decodeFunction b = .unimpHigh low := by
  simp only [groupFields, List.mem_cons, List.not_mem_nil, or_false, not_or] at h
  obtain ⟨h9, h12, h13, h14, h15⟩ := h
  simp only [decodeFunction, h9, h12, h13, h14, h15, if_false]
  by_cases hmid : wordField b = 8
  · exact .inr (.inl ⟨_, if_pos hmid⟩)
  rw [if_neg hmid]
  by_cases hhigh : wordField b = 10 ∨ wordField b = 11
  · exact .inr (.inr ⟨_, if_pos hhigh⟩)
  · exact .inl ⟨_, if_neg hhigh⟩

/-- Settles O26: the field in place names the field of the word, and the three rows have one meaning. -/
theorem unimpResults : Obligations.UnimpResults := by
  unfold Obligations.UnimpResults
  refine ⟨fun b hclass h24 h30 h34 h38 h3C => ?_, fun s => ⟨fun _ => rfl, fun _ => rfl, fun _ => rfl⟩⟩
  have hgroup : wordField b ∉ groupFields := by
    simp only [groupFields, List.mem_cons, List.not_mem_nil, or_false, not_or]
    exact ⟨mt (field_in_place_eq_iff b 9).mpr h24, mt (field_in_place_eq_iff b 12).mpr h30,
      mt (field_in_place_eq_iff b 13).mpr h34, mt (field_in_place_eq_iff b 14).mpr h38,
      mt (field_in_place_eq_iff b 15).mpr h3C⟩
  rw [decodeWord_of_functionClass hclass]
  exact decodeFunction_outsideGroups hgroup

/-! ## The arithmetic laws -/

/-- Bit 0 of a shifted SR is the serial bit, every other bit the old one below it: the library's `shiftConcat`. -/
theorem shiftIn_sr_eq_shiftConcat (serial : Bool) (s : State) : (shiftIn serial s).sr = s.sr.shiftConcat serial := by
  ext i hi
  by_cases hzero : i = 0
  · simp [BitVec.getElem_shiftConcat, hzero]
  · simp [BitVec.getElem_shiftConcat, hzero]

/-- The shift doubles and adds the serial bit; the old bit 7 is lost (10_state.md R18). -/
theorem shiftIn_sr_toNat (serial : Bool) (s : State) :
    (shiftIn serial s).sr.toNat = (2 * s.sr.toNat + serial.toNat) % 256 := by
  rw [shiftIn_sr_eq_shiftConcat, BitVec.toNat_shiftConcat, Nat.shiftLeft_eq, Nat.mul_comm]

/-- Settles O27: every increment is an addition of 1 in its register's width, the fetch's under the 11-bit mask. -/
theorem arithmeticWrapsSilently : Obligations.ArithmeticWrapsSilently := by
  unfold Obligations.ArithmeticWrapsSilently
  intro s
  exact ⟨⟨_, rfl, BitVec.toNat_add s.cntr 1⟩, ⟨_, rfl, BitVec.toNat_add s.bar 1⟩, ⟨_, rfl, shiftIn_sr_toNat false s⟩,
    ⟨_, rfl, shiftIn_sr_toNat true s⟩, slotAddress_toNat s.pc, BitVec.toNat_add s.pc 1⟩

end Sys2Proof.Machine

/-!
The events of a cycle (60_exceptions.md R112 to R116): which a cycle emits, and that neither its registers nor its memories
nor its events depend on the trace.
-/

namespace Sys2Proof.Machine

/-! ## The events a cycle emits -/

/-- The event of the fetch half of a decode cycle (60_exceptions.md R112). -/
def fetchEvents (s : State) : List Event := if s.irep then [] else [.fetch s.pc]

/-- The events of a cycle in their order: none of a deferred cycle, else those of the fetch half, then those of the decode
step (60_exceptions.md R112 to R114, R116). -/
def cycleEvents (s : State) : List Event :=
  if s.idis then []
  else fetchEvents s ++ decodeEvents (decodeWord (decodePoint s).mb) (decodePoint s).ppc (decodePoint s).mb

theorem cycleEvents_of_idis {s : State} (hidis : s.idis = true) : cycleEvents s = [] :=
  if_pos hidis

theorem cycleEvents_of_not_idis {s : State} (hidis : s.idis = false) :
    cycleEvents s =
      fetchEvents s ++ decodeEvents (decodeWord (decodePoint s).mb) (decodePoint s).ppc (decodePoint s).mb := by
  simp [cycleEvents, hidis]

/-- The fetch half puts its event after whatever trace it finds. -/
theorem decodePoint_setTrace (s : State) (tr : List Event) :
    decodePoint { s with trace := tr } = { decodePoint s with trace := tr ++ fetchEvents s } := by
  rcases Bool.eq_false_or_eq_true s.irep with hirep | hirep
  · rw [decodePoint_of_irep hirep, fetchEvents, if_pos hirep, List.append_nil]
    exact decodePoint_of_irep hirep
  · rw [decodePoint_of_not_irep hirep, fetchEvents, if_neg (Bool.eq_false_iff.mp hirep)]
    exact decodePoint_of_not_irep hirep

/-- The decode step puts its events after whatever trace it finds, and no register depends on the trace. -/
theorem decodeStep_setTrace (i : Instr) (s : State) (tr : List Event) :
    decodeStep i { s with trace := tr } = { decodeStep i s with trace := tr ++ decodeEvents i s.ppc s.mb } := rfl

/-- A step from the same state with another trace: the same registers, memories and events (60_exceptions.md R115). -/
theorem step_setTrace {s t : State} (h : step s = .next t) (tr : List Event) :
    step { s with trace := tr } = .next { t with trace := tr ++ cycleEvents s } := by
  rcases step_cases h with ⟨hidis, rfl⟩ | ⟨hidis, rfl⟩
  · rw [cycleEvents_of_idis hidis, List.append_nil]
    exact step_of_idis hidis
  · rw [cycleEvents_of_not_idis hidis, ← List.append_assoc]
    have hstep := step_of_not_idis (s := { s with trace := tr }) hidis
    rwa [decodePoint_setTrace, decodeStep_setTrace] at hstep

/-- A step appends the events of its cycle to the trace. -/
theorem trace_of_step {s t : State} (h : step s = .next t) : t.trace = s.trace ++ cycleEvents s := by
  have hsame : t = { t with trace := s.trace ++ cycleEvents s } :=
    Host.Outcome.next.inj (h.symm.trans (step_setTrace h s.trace))
  exact congrArg State.trace hsame

/-! ## The diagnostics among them -/

theorem length_decodeEvents_le_one (i : Instr) (ppc : Addr) (mb : Byte) : (decodeEvents i ppc mb).length ≤ 1 := by
  cases i with
  | br c pol src | wb c pol src => cases c <;> simp [decodeEvents, condEvents]
  | _ => simp [decodeEvents]

theorem filter_isDiagnostic_fetchEvents (s : State) : (fetchEvents s).filter Event.isDiagnostic = [] := by
  unfold fetchEvents
  split <;> rfl

/-- A cycle emits at most one diagnostic: its fetch emits none, its decode step at most one event (60_exceptions.md R116). -/
theorem length_filter_isDiagnostic_cycleEvents (s : State) :
    ((cycleEvents s).filter Event.isDiagnostic).length ≤ 1 := by
  rcases Bool.eq_false_or_eq_true s.idis with hidis | hidis
  · simp [cycleEvents_of_idis hidis]
  · rw [cycleEvents_of_not_idis hidis, List.filter_append, filter_isDiagnostic_fetchEvents, List.nil_append]
    exact (List.length_filter_le _ _).trans (length_decodeEvents_le_one _ _ _)

/-- The groups as their fields in place (30_encoding.md R46). -/
theorem field_in_place_mem_iff (b : Byte) :
    b &&& 0x3C ∈ ([0x24, 0x30, 0x34, 0x38, 0x3C] : List Byte) ↔ wordField b ∈ groupFields := by
  simp only [groupFields, List.mem_cons, List.not_mem_nil, or_false]
  exact or_congr (field_in_place_eq_iff b 9) (or_congr (field_in_place_eq_iff b 12) (or_congr (field_in_place_eq_iff b 13)
    (or_congr (field_in_place_eq_iff b 14) (field_in_place_eq_iff b 15))))

/-- A word of class `10` emits nothing (42_jump_spar.md R85, R86). -/
theorem decodeEvents_classTen {b : Byte} (h6 : b.getLsbD 6 = false) (h7 : b.getLsbD 7 = true) (ppc : Addr) (mb : Byte) :
    decodeEvents (decodeWord b) ppc mb = [] := by
  simp only [decodeWord, h6, h7]
  cases b.getLsbD 1 <;> rfl

/-- The function class emits exactly outside its five groups (43_function.md R106). -/
theorem decodeEvents_decodeFunction (b : Byte) (ppc : Addr) (mb : Byte) :
    decodeEvents (decodeFunction b) ppc mb =
      if wordField b ∈ groupFields then [] else [.unimplementedInstruction ppc mb] := by
  split
  · next hgroup =>
    simp only [groupFields, List.mem_cons, List.not_mem_nil, or_false] at hgroup
    rcases hgroup with hf | hf | hf | hf | hf
    all_goals
      simp only [decodeFunction, hf]
      cases b.getLsbD 1 <;> cases b.getLsbD 0 <;> rfl
  · next hgroup =>
    rcases decodeFunction_outsideGroups hgroup with ⟨low, h⟩ | ⟨low, h⟩ | ⟨low, h⟩
    all_goals rw [h]; rfl

/-- The events of the decode step of MB, by its bits: the evaluator's in the branch class, one for a function code outside
the groups, else none (60_exceptions.md R113, R114). -/
theorem decodeEvents_decodeWord_mb (s : State) :
    decodeEvents (decodeWord s.mb) s.ppc s.mb =
      if s.mb.getLsbD 6 = true then bitCondEvents (s.mb &&& 0x3C) s
      else if s.mb.getLsbD 7 = false ∧ s.mb &&& 0x3C ∉ ([0x24, 0x30, 0x34, 0x38, 0x3C] : List Byte) then
        [.unimplementedInstruction s.ppc s.mb]
      else [] := by
  rcases Bool.eq_false_or_eq_true (s.mb.getLsbD 6) with h6 | h6
  · rw [if_pos h6, decodeWord_of_bit6 h6, ← condEvents_condOfField]
    split <;> rfl
  simp only [if_neg (Bool.eq_false_iff.mp h6), field_in_place_mem_iff]
  rcases Bool.eq_false_or_eq_true (s.mb.getLsbD 7) with h7 | h7
  · simp only [decodeEvents_classTen h6 h7, h7, Bool.true_eq_false, false_and, if_false]
  · have hclass : decodeWord s.mb = decodeFunction s.mb := by simp only [decodeWord, h6, h7, Bool.false_eq_true, if_false]
    simp only [hclass, decodeEvents_decodeFunction, h7, true_and, ite_not]

/-- Settles O50: the trace grows by the events of the cycle, those of its decode step told by the bits of MB. -/
theorem eventsOfACycle : Obligations.EventsOfACycle := by
  unfold Obligations.EventsOfACycle
  intro s
  obtain ⟨t, _, hstep, _⟩ := exists_step s
  refine ⟨t, cycleEvents s, hstep, trace_of_step hstep, length_filter_isDiagnostic_cycleEvents s, ?_⟩
  rw [cycleEvents, decodeEvents_decodeWord_mb, fetchEvents]

/-! ## Events change nothing -/

/-- The two states agree in every register and in both memories. -/
def SameButTrace (s t : State) : Prop := ∃ tr, t = { s with trace := tr }

theorem SameButTrace.refl (s : State) : SameButTrace s s := ⟨s.trace, rfl⟩

/-- Two branches on one condition, agreeing branch by branch. -/
theorem SameButTrace.ite {c : Prop} [Decidable c] {s t s' t' : State} (h : SameButTrace s t) (h' : SameButTrace s' t') :
    SameButTrace (if c then s else s') (if c then t else t') := by
  split
  · exact h
  · exact h'

theorem SameButTrace.eq {s t : State} (h : SameButTrace s t) : t = { s with trace := t.trace } := by
  obtain ⟨tr, rfl⟩ := h
  rfl

section Pseudocode

variable {s t : State} (log log' : List Event → List Event)

theorem sameButTrace_bitFetch (h : SameButTrace s t) : SameButTrace (bitFetch log s) (bitFetch log' t) := by
  obtain ⟨tr, rfl⟩ := h
  exact .ite ⟨tr, rfl⟩ ⟨_, rfl⟩

/-- The decode half reads no trace, and its log reaches the trace only: class by class, and group by group in the function
class (30_encoding.md R45). -/
theorem sameButTrace_bitDecode (h : SameButTrace s t) : SameButTrace (bitDecode log s) (bitDecode log' t) := by
  obtain ⟨tr, rfl⟩ := h
  refine .ite ?branchClass (.ite ?classTen ?functionClass)
  case branchClass => exact .ite ⟨_, rfl⟩ ⟨_, rfl⟩
  case classTen => exact .ite ⟨_, rfl⟩ ⟨_, rfl⟩
  case functionClass =>
    exact .ite ⟨_, rfl⟩ (.ite ⟨_, rfl⟩ (.ite ⟨_, rfl⟩ (.ite ⟨_, rfl⟩ (.ite ⟨_, rfl⟩ ⟨_, rfl⟩))))

theorem sameButTrace_bitCycle (h : SameButTrace s t) : SameButTrace (bitCycle log s) (bitCycle log' t) := by
  have hdecode := sameButTrace_bitDecode log log' (sameButTrace_bitFetch log log' h)
  obtain ⟨tr, rfl⟩ := h
  exact .ite ⟨tr, rfl⟩ hdecode

end Pseudocode

/-- A step gives the registers and memories of the cycle with its events dropped, from a state that may differ in its trace
(60_exceptions.md R115). -/
theorem sameButTrace_of_step {s s' t : State} (h : SameButTrace s s') (hstep : step s' = .next t) :
    SameButTrace (bitCycle (fun _ => []) s) t := by
  obtain rfl : bitCycle id s' = t :=
    Host.Outcome.next.inj ((stepIsTheBitLevelPseudocode s').symm.trans hstep)
  exact sameButTrace_bitCycle _ id h

/-- Over any number of cycles a machine that drops the trace has the same registers and memories. -/
theorem exists_run_sameButTrace (n : Nat) (s : State) :
    ∃ t, run n s = .next t ∧ SameButTrace ((bitCycle fun _ => [])^[n] s) t := by
  induction n with
  | zero => exact ⟨s, rfl, SameButTrace.refl s⟩
  | succ n ih =>
    obtain ⟨t, hrun, hsame⟩ := ih
    obtain ⟨u, _, hstep, _⟩ := exists_step t
    refine ⟨u, (run_succ_of_run hrun).trans hstep, ?_⟩
    rw [Function.iterate_succ_apply']
    exact sameButTrace_of_step hsame hstep

/-- Settles O52: one step against the cycle with its events dropped, the events of the cycle whatever the old trace, and
the induction over the cycles. -/
theorem eventsChangeNothing : Obligations.EventsChangeNothing := by
  unfold Obligations.EventsChangeNothing
  refine ⟨fun s => ?_, fun n s => ?_⟩
  · obtain ⟨t, _, hstep, _⟩ := exists_step s
    refine ⟨t, cycleEvents s, hstep, ?_, step_setTrace hstep⟩
    rw [← trace_of_step hstep]
    exact (sameButTrace_of_step (SameButTrace.refl s) hstep).eq
  · obtain ⟨t, hrun, hsame⟩ := exists_run_sameButTrace n s
    exact ⟨t, hrun, hsame.eq⟩

end Sys2Proof.Machine

/-!
Reset, hazards and timing (70_reset_and_hazards.md): the two cycles of a deferring form that is no `WB`, the address after its
slot byte, and the state that reset leaves with the cycle after it.
-/

namespace Sys2Proof.Machine

/-! ## Deferring forms -/

/-- Every deferring form but `WB` defers whatever the state (30_encoding.md R48, 10_state.md R14). -/
theorem idisAfter_of_hasSlot {i : Instr} (hslot : i.hasSlot = true) (hwb : ∀ c pol src, i ≠ .wb c pol src) (s : State) :
    idisAfter i s = true := by
  cases i with
  | br c pol src | jmp page src | ldci | inck => rfl
  | wb c pol src => exact absurd rfl (hwb c pol src)
  | _ => cases hslot

/-- No decode step but a `WB`'s writes IREP (10_state.md R15). -/
theorem irepAfter_of_not_wb {i : Instr} (hwb : ∀ c pol src, i ≠ .wb c pol src) (s : State) : irepAfter i s = s.irep := by
  by_contra hne
  obtain ⟨c, pol, src, hi⟩ := writer_of_irepAfter_ne hne
  exact hwb c pol src hi

theorem atBoundary_deferredCycle (s : State) : atBoundary (deferredCycle s) :=
  ⟨deferredCycle_idis s, deferredCycle_irep s⟩

/-- From a boundary a deferring form that is no `WB` leaves its deferred cycle pending (40_cycle_engine.md R70). -/
theorem step_deferring {s : State} (hb : atBoundary s) (hword : deferringWord (romRead s.pc s) = true)
    (hwb : romRead s.pc s &&& 0xC0 ≠ 0xC0) : ∃ t, step s = .next t ∧ t.idis = true ∧ t.irep = false := by
  obtain ⟨hidis, hirep⟩ := hb
  have hslot : (decodeWord (romRead s.pc s)).hasSlot = true := (hasSlot_decodeWord _).trans hword
  have hnotWb : ∀ c pol src, decodeWord (romRead s.pc s) ≠ .wb c pol src := fun _ _ _ hi => hwb (wb_bits_of_decodeWord hi)
  exact ⟨_, step_fetching hidis hirep, idisAfter_of_hasSlot hslot hnotWb (fetch s),
    (irepAfter_of_not_wb hnotWb (fetch s)).trans hirep⟩

/-- Settles O40: a one-byte form keeps the boundary, and another form but `WB` returns to it by its deferred cycle. -/
theorem cycleCounts : Obligations.CycleCounts := by
  unfold Obligations.CycleCounts
  refine fun s hb => ⟨fun hword => ?_, fun hword hwb => ?_⟩
  · obtain ⟨t, hstep, hbt, _⟩ := step_oneByte hb hword
    exact ⟨t, hstep, hbt⟩
  · obtain ⟨t, hstep, hidis, hirep⟩ := step_deferring hb hword hwb
    exact ⟨t, deferredCycle t, hstep, hidis, hirep, step_of_idis hidis, atBoundary_deferredCycle t⟩

/-! ## The address after the slot byte -/

theorem decodeWord_of_br_bits {b : Byte} (h : b &&& 0xC0 = 0x40) :
    decodeWord b = .br (condOfField (wordField b)) (b.getLsbD 1) (wordSrc b) := by
  revert b
  decide

/-- The two cycles of a `BR` whose condition differs from its polarity end after the slot byte (41_branch.md R76). -/
theorem run_two_untakenBr {s : State} (hb : atBoundary s) (hword : romRead s.pc s &&& 0xC0 = 0x40)
    (hcond : bitCond (romRead s.pc s &&& 0x3C) s ≠ (romRead s.pc s).getLsbD 1) :
    ∃ t, run 2 s = .next t ∧ atBoundary t ∧ t.pc = slotAddress s.pc + 1 := by
  obtain ⟨_, _, hbr⟩ := brResult
  obtain ⟨_, hrun⟩ := hbr _ _ _ s hb (decodeWord_of_br_bits hword)
  rw [← condValue_condOfField] at hcond
  rw [if_neg hcond, and_full_addr] at hrun
  exact ⟨_, hrun, ⟨rfl, rfl⟩, rfl⟩

/-- Settles O39: the two cycles of `LDCI`, of `INCK` and of a `BR` that is not taken, as their own results give them. -/
theorem slotByteIsSteppedOver : Obligations.SlotByteIsSteppedOver := by
  unfold Obligations.SlotByteIsSteppedOver
  rintro s hb (hldci | hinck | ⟨hbr, hcond⟩)
  · obtain ⟨_, _, _, hcycles⟩ := ldciResult
    exact ⟨_, (hcycles s hb hldci).2, ⟨rfl, rfl⟩, and_full_addr _⟩
  · obtain ⟨_, _, _, hcycles⟩ := inckResult
    exact ⟨_, (hcycles s hb hinck).2, ⟨rfl, rfl⟩, and_full_addr _⟩
  · exact run_two_untakenBr hb hbr hcond

/-! ## Reset -/

theorem atBoundary_resetCore (s : State) : atBoundary (resetCore s) :=
  ⟨resetCore_idis s, resetCore_irep s⟩

/-- The fetch after reset reads the store at address 0 and leaves PC at 1 (70_reset_and_hazards.md R127). -/
theorem fetch_resetCore (s : State) :
    fetch (resetCore s) =
      { resetCore s with mb := Memory.read s.rom 0, pc := 0x001, trace := s.trace ++ [.fetch 0x000] } := by
  have hslot : slotAddress 0 = 0x001 := by decide
  rw [fetch, resetCore_pc, hslot]
  rfl

/-- Settles O42: the reset operation writes the twelve registers and keeps the other three fields. -/
theorem resetOperation : Obligations.ResetOperation := by
  unfold Obligations.ResetOperation
  exact fun _ => rfl

/-- Settles O43: reset leaves a boundary, so a pending deferred cycle is dropped and the next cycle fetches at 0. -/
theorem firstCycleAfterReset : Obligations.FirstCycleAfterReset := by
  unfold Obligations.FirstCycleAfterReset
  intro s
  rw [step_atBoundary (atBoundary_resetCore s), fetch_resetCore]
  rfl

/-- Settles O44: the table of registers, then the reset operation as that table over the memories and the trace. -/
theorem resetStateRegisters : Obligations.ResetStateRegisters := by
  unfold Obligations.ResetStateRegisters
  exact ⟨rfl, rfl, rfl, rfl, rfl, rfl, rfl, rfl, rfl, rfl, rfl, rfl, fun _ => rfl⟩

end Sys2Proof.Machine
